-- ==== Sys2Proof/Word.lean ====
section
/-! DEFINITION. The word types of HC11MON-DL: bytes and addresses (spec rules R8, R50). -/

namespace Sys2Proof

/-- A byte: 8 bits, 7 the most significant (R8). A character of the input stream is one byte (R10, R33). -/
abbrev Byte := BitVec 8

/-- An address: `ADDR_BITS` = 16 bits (R7, R50). Its arithmetic wraps mod 2^16 (R58). -/
abbrev Addr := BitVec 16

end Sys2Proof
end

