-- ==== Sys2Proof/Config.lean ====
section
/-! DEFINITION. The configuration parameters of one instance of the block (spec rules R7, R21), and its two free
values: the oracle that answers reads outside the valid window (R51) and the launch contents of memory (R261). -/

namespace Sys2Proof

/-- The suffixes `addSuffix` can select (R26). `bare` is the empty string (D8). -/
inductive Suffix where
  | dd | db | ca | cb | da | b | a | aa | ab | d | s | x | y | bare
deriving DecidableEq, Repr

/-- One row of `SuffixTable` (R74): a suffix key, its suffix, and whether it marks is16Bit. -/
structure SuffixRow where
  key : Byte
  sfx : Suffix
  is16 : Bool
deriving DecidableEq, Repr

/-- `P_LINE_COMMIT` (R7, R199, D23): when a data record's bytes reach memory. -/
inductive LineCommit where
  | writeThrough
  | buffered
deriving DecidableEq, Repr

/-- `CFG` (R7, R20, R21): the parameters of the instance. No operation changes them. -/
structure Config where
  /-- `MIN`, the lowest address of the valid window. -/
  min : Addr
  /-- `MAX`, the highest address of the valid window. -/
  max : Addr
  /-- `LF_START`, the lowest load address the loader accepts (OPEN, D6). -/
  lfStart : Addr
  /-- `LF_MAX`, the highest load address the loader accepts (OPEN, D6). -/
  lfMax : Addr
  /-- `ESC_BUDGET`, the largest number of escape bytes one decode may skip. -/
  escBudget : Nat
  /-- `SuffixTable` (R74, D7). -/
  suffixTable : List SuffixRow
  /-- `P_XY_IS16` (D9). -/
  xyIs16 : Bool
  /-- `P_DRIVER_WINDOW_CHECK` (D17). -/
  driverWindowCheck : Bool
  /-- `P_LINE_COMMIT` (D23). -/
  lineCommit : LineCommit
  /-- `P_PROGRESS_CHAR` (OPEN, D26): the character the event `Progress` stands for. No rule reads it. -/
  progressChar : Byte
deriving DecidableEq, Repr

/-- The three boot requirements of R264 that the block can check (log entry 17). -/
abbrev Config.Admissible (c : Config) : Prop :=
  c.min ≤ c.max ∧ c.min ≤ c.lfStart ∧ c.lfStart ≤ c.lfMax ∧ c.lfMax ≤ c.max ∧ ¬ (c.lfStart = c.min ∧ c.lfMax = c.max)

/-- `OutsideRead` (R51, R55, D3): the byte that draw number `n` of the run returns, when it is a read of address `a`
outside [MIN, MAX]. A FREE VALUE: it has no body, so nothing can be proved of the byte. The number makes two reads of
one address two independent draws (log entry 1). -/
opaque Config.outsideRead : (n : Nat) → (a : Addr) → Byte

/-- The launch contents of memory (R36, R261, 92_eei_decisions.md D4): the byte the address `a` of [MIN, MAX] holds until
something writes it. A FREE VALUE, the launch parameter of R261: it has no body, so a claim holds for any bytes
(log entry 3). -/
opaque Config.launchByte : (a : Nat) → Byte

end Sys2Proof
end

