-- ==== Sys2Proof/Syntax.lean ====
section
/-! DEFINITION. The instructions of HC11MON-DL: one constructor for each of the 43 rows of spec/opcode_table.json.
An opcode row's operand is the addressing mode in its byte's bits 5..4; an escape or no-match row's operand is the byte
itself; a record row's operands are the characters 2..7 of the lookahead window (spec rules R70 to R75, R83). -/

namespace Sys2Proof

/-- The addressing mode `FB & 0x30` selects (R75): Immediate, Direct, Indexed, Extended. -/
inductive Mode where
  | imm | dir | idx | ext
deriving DecidableEq, Repr

/-- `FAM`, the matched family (R25, R71). -/
inductive Family where
  | ld | st | sub | ad
deriving DecidableEq, Repr

/-- One constructor per row of spec/opcode_table.json. Where several rows share a mnemonic, the constructor's name
carries the row's match value. -/
inductive Instr where
  /-- `addd`, key 0xC3 (R140). -/
  | addd (m : Mode)
  /-- `addb`, key 0xCB (R139). -/
  | addb (m : Mode)
  /-- `adca`, key 0x89 (R141). -/
  | adca (m : Mode)
  /-- `adcb`, key 0xC9 (R142). -/
  | adcb (m : Mode)
  /-- `adda`, key 0x8B (R138). -/
  | adda (m : Mode)
  /-- `subb`, key 0xC0 (R135). -/
  | subb (m : Mode)
  /-- `suba`, key 0x80 (R134). -/
  | suba (m : Mode)
  /-- `ldaa`, key 0x86 (R120). -/
  | ldaa (m : Mode)
  /-- `staa`, key 0x87 (R127). -/
  | staa (m : Mode)
  /-- `ldab`, key 0xC6 (R121). -/
  | ldab (m : Mode)
  /-- `stab`, key 0xC7 (R128). -/
  | stab (m : Mode)
  /-- `subd`, key 0x83 (R136). -/
  | subd (m : Mode)
  /-- `ldd`, key 0xCC (R122). -/
  | ldd (m : Mode)
  /-- `std`, key 0xCD; it has no Immediate form (R129). -/
  | std (m : Mode)
  /-- `lds`, key 0x8E (R123). -/
  | lds (m : Mode)
  /-- `sts`, key 0x8F (R130). -/
  | sts (m : Mode)
  /-- `ldx`, key 0xCE with `PB` 0x00 or 0xCD (R124). -/
  | ldx (m : Mode)
  /-- `ldy`, key 0xCE with `PB` 0x18 (R125). -/
  | ldy (m : Mode)
  /-- `ld`, key 0xCE with any other `PB` (R126). -/
  | ldCE (m : Mode)
  /-- `stx`, key 0xCF with `PB` 0x00 or 0xCD (R131). -/
  | stx (m : Mode)
  /-- `sty`, key 0xCF with `PB` 0x18 (R132). -/
  | sty (m : Mode)
  /-- `st`, key 0xCF with any other `PB` (R133). -/
  | stCF (m : Mode)
  /-- `ld`, key 0x84 (R126). -/
  | ld84 (m : Mode)
  /-- `ld`, key 0x8C (R126). -/
  | ld8C (m : Mode)
  /-- `ld`, key 0xC4 (R126). -/
  | ldC4 (m : Mode)
  /-- `st`, key 0x85 (R133). -/
  | st85 (m : Mode)
  /-- `st`, key 0x8D (R133). -/
  | st8D (m : Mode)
  /-- `st`, key 0xC5 (R133). -/
  | stC5 (m : Mode)
  /-- `sub`, key 0x82 (R137). -/
  | sub82 (m : Mode)
  /-- `sub`, key 0x88 (R137). -/
  | sub88 (m : Mode)
  /-- `sub`, key 0x8A (R137). -/
  | sub8A (m : Mode)
  /-- `sub`, key 0xC2 (R137). -/
  | subC2 (m : Mode)
  /-- `sub`, key 0xC8 (R137). -/
  | subC8 (m : Mode)
  /-- `sub`, key 0xCA (R137). -/
  | subCA (m : Mode)
  /-- `ad`, key 0x81 (R143). -/
  | ad81 (m : Mode)
  /-- `ad`, key 0xC1 (R143). -/
  | adC1 (m : Mode)
  /-- `ESC`, a byte `b` with `b & 0x85 = 0x00` (R72, R144). -/
  | esc (b : Byte)
  /-- `ESC`, the byte 0xCD (R72, R144). -/
  | escCD
  /-- `NULL`, a byte `b` with `b & 0x85 = 0x01` (R73, R145). -/
  | null01 (b : Byte)
  /-- `NULL`, a byte `b` with `b & 0x85 = 0x04` (R73, R145). -/
  | null04 (b : Byte)
  /-- `NULL`, a byte `b` with `b & 0x85 = 0x05` (R73, R145). -/
  | null05 (b : Byte)
  /-- `S1`, a data record: the window's characters 2..7, hex pairs of `len`, `addr_hi`, `addr_lo` (R83, R210). -/
  | s1 (c2 c3 c4 c5 c6 c7 : Byte)
  /-- `S9`, the terminator: the window's characters 2..7, which nothing reads (R187, R211). -/
  | s9 (c2 c3 c4 c5 c6 c7 : Byte)
deriving DecidableEq, Repr

end Sys2Proof
end

