-- ==== Sys2Proof/WellFormed.lean ====
section
/-! DEFINITION. Well-formed instructions: the terms that some byte (or window) of the spec's encoding stands for. -/

namespace Sys2Proof

/-- A term some encoding stands for. Four checks: `std` has no Immediate form (R129: the byte CD is the escape); the
byte of an `ESC` row has `b & 0x85 = 0x00` (R72); the byte of a `NULL` row is in that row's mask class (R73). -/
def Instr.wf : Instr → Bool
  | .std m => m != .imm
  | .esc b => b &&& 0x85 == 0x00
  | .null01 b => b &&& 0x85 == 0x01
  | .null04 b => b &&& 0x85 == 0x04
  | .null05 b => b &&& 0x85 == 0x05
  | _ => true

/-- Well-formed after the preceding byte `pb`: the `preceding_byte` column of spec/opcode_table.json chooses between
the three rows of key 0xCE and the three of key 0xCF (R105, R124 to R126, R131 to R133). -/
def Instr.wfAt (pb : Byte) (i : Instr) : Bool :=
  i.wf && match i with
    | .ldx _ | .stx _ => pb == 0x00 || pb == 0xCD
    | .ldy _ | .sty _ => pb == 0x18
    | .ldCE _ | .stCF _ => !(pb == 0x00 || pb == 0xCD || pb == 0x18)
    | _ => true

/-- The instruction is an S-record, read from the character window; any other is one opcode byte. -/
def Instr.isRecord : Instr → Bool
  | .s1 .. | .s9 .. => true
  | _ => false

end Sys2Proof
end

