-- ==== Sys2Proof/Decode.lean ====
section
/-! DEFINITION. The decoder of the block's two instruction encodings, and the encoder. An opcode byte is classified by
its masks (spec rules R70 to R75, R79); an S-record is recognised in the 8-character lookahead window (R83, R85, R186).
Also `SuffixTable` (R74), the `opcode_table.json` rows, and `decodeTableWord`. -/

namespace Sys2Proof

/-! ### Opcode bytes -/

/-- The family field mask of R70. -/
def familyMask : Byte := 0x85

/-- The suffix key `v = b & 0xCF` (R70, R74). -/
def suffixKey (b : Byte) : Byte := b &&& 0xCF

/-- The mode field `b & 0x30` (R70, R75). -/
def modeField (b : Byte) : Mode :=
  if b &&& 0x30 = 0x00 then .imm else if b &&& 0x30 = 0x10 then .dir else if b &&& 0x30 = 0x20 then .idx else .ext

/-- The bits 5..4 of a byte of the given mode (R75). -/
def modeBits : Mode → Byte
  | .imm => 0x00
  | .dir => 0x10
  | .idx => 0x20
  | .ext => 0x30

/-- The class R71 gives a byte. -/
inductive ByteClass where
  | family (f : Family)
  | escape
  | noMatch
deriving DecidableEq, Repr

/-- R71, in the order of R79: the byte 0xCD is tested before the `st` row, and key 0x83 before the `ad` row. -/
def classify (b : Byte) : ByteClass :=
  let m := b &&& familyMask
  if m = 0x84 then .family .ld
  else if m = 0x85 then (if b = 0xCD then .escape else .family .st)
  else if m = 0x80 then .family .sub
  else if m = 0x81 then (if suffixKey b = 0x83 then .family .sub else .family .ad)
  else if m = 0x00 then .escape
  else .noMatch

/-- Which of the three rows of an `x`/`y` key the preceding byte selects (R105; the `preceding_byte` column). -/
def xyRow (pb : Byte) (x y other : Instr) : Instr :=
  if pb = 0x00 ∨ pb = 0xCD then x else if pb = 0x18 then y else other

/-- The row of a load-family byte: R120 to R126. -/
def decodeLd (pb v : Byte) (m : Mode) : Instr :=
  if v = 0x84 then .ld84 m else if v = 0x86 then .ldaa m else if v = 0x8C then .ld8C m else if v = 0x8E then .lds m
  else if v = 0xC4 then .ldC4 m else if v = 0xC6 then .ldab m else if v = 0xCC then .ldd m
  else xyRow pb (.ldx m) (.ldy m) (.ldCE m)

/-- The row of a store-family byte: R127 to R133. -/
def decodeSt (pb v : Byte) (m : Mode) : Instr :=
  if v = 0x85 then .st85 m else if v = 0x87 then .staa m else if v = 0x8D then .st8D m else if v = 0x8F then .sts m
  else if v = 0xC5 then .stC5 m else if v = 0xC7 then .stab m else if v = 0xCD then .std m
  else xyRow pb (.stx m) (.sty m) (.stCF m)

/-- The row of a subtract-family byte: R134 to R137. -/
def decodeSub (v : Byte) (m : Mode) : Instr :=
  if v = 0x80 then .suba m else if v = 0x82 then .sub82 m else if v = 0x83 then .subd m else if v = 0x88 then .sub88 m
  else if v = 0x8A then .sub8A m else if v = 0xC0 then .subb m else if v = 0xC2 then .subC2 m
  else if v = 0xC8 then .subC8 m else .subCA m

/-- The row of an add-family byte: R138 to R143. -/
def decodeAd (v : Byte) (m : Mode) : Instr :=
  if v = 0x81 then .ad81 m else if v = 0x89 then .adca m else if v = 0x8B then .adda m else if v = 0xC1 then .adC1 m
  else if v = 0xC3 then .addd m else if v = 0xC9 then .adcb m else .addb m

/-- The row of a byte in family position after the preceding byte `pb`. It is total: every byte is an escape, a
no-match byte or a family byte (R71, R80). -/
def decodeOpcode (pb b : Byte) : Instr :=
  match classify b with
  | .family .ld => decodeLd pb (suffixKey b) (modeField b)
  | .family .st => decodeSt pb (suffixKey b) (modeField b)
  | .family .sub => decodeSub (suffixKey b) (modeField b)
  | .family .ad => decodeAd (suffixKey b) (modeField b)
  | .escape => if b = 0xCD then .escCD else .esc b
  | .noMatch =>
    if b &&& familyMask = 0x01 then .null01 b else if b &&& familyMask = 0x04 then .null04 b else .null05 b

/-! ### S-records -/

/-- The character `'S'`, an ASCII code (R10). -/
def charS : Byte := 0x53
/-- The character `'1'`. -/
def char1 : Byte := 0x31
/-- The character `'9'`. -/
def char9 : Byte := 0x39

/-- The 8-character lookahead window `W[0..7]` (R32, R185). -/
structure Window where
  c0 : Byte
  c1 : Byte
  c2 : Byte
  c3 : Byte
  c4 : Byte
  c5 : Byte
  c6 : Byte
  c7 : Byte
deriving DecidableEq, Repr

/-- Why bytes are no instruction. -/
inductive DecodeReject where
  /-- There is no byte to classify. -/
  | noByte
  /-- The bytes are fewer than the 8 characters of a window (R185). -/
  | shortWindow
  /-- `W[0]` is not `'S'`, or `W[1]` is neither `'1'` nor `'9'`: the scan discards `W[0]` (R85, R186). -/
  | notARecord
deriving DecidableEq, Repr

/-- R186: a record starts at the window's first character, or the scan goes on. -/
def decodeWindow (w : Window) : Except DecodeReject Instr :=
  if w.c0 = charS ∧ w.c1 = char1 then .ok (.s1 w.c2 w.c3 w.c4 w.c5 w.c6 w.c7)
  else if w.c0 = charS ∧ w.c1 = char9 then .ok (.s9 w.c2 w.c3 w.c4 w.c5 w.c6 w.c7)
  else .error .notARecord

/-! ### Byte lists -/

/-- What the block is fetching: an opcode byte after a preceding byte (`decode`, `disasm`), or a record (`load`). -/
inductive FetchSpace where
  | opcode (pb : Byte)
  | record
deriving DecidableEq, Repr

/-- The decoder on any bytes: the instruction that stands first and the rest, or a rejection by name. -/
def decode : FetchSpace → List Byte → Except DecodeReject (Instr × List Byte)
  | .opcode _, [] => .error .noByte
  | .opcode pb, b :: rest => .ok (decodeOpcode pb b, rest)
  | .record, c0 :: c1 :: c2 :: c3 :: c4 :: c5 :: c6 :: c7 :: rest =>
    match decodeWindow ⟨c0, c1, c2, c3, c4, c5, c6, c7⟩ with
    | .ok i => .ok (i, rest)
    | .error e => .error e
  | .record, _ => .error .shortWindow

/-- The instruction of one word numbered as spec/opcode_table.json numbers it. An 8-bit row is one opcode byte, with no
escape before it. A 16-bit row holds the record's first two characters, the first in bits 15..8 (the table's match
0x5331 is `'S' '1'`); the window's other characters are 0 (log entry 7). -/
def decodeTableWord (nbits w : Nat) : Option Instr :=
  if nbits = 8 then some (decodeOpcode 0x00 (BitVec.ofNat 8 w))
  else if nbits = 16 then
    match decodeWindow ⟨BitVec.ofNat 8 (w / 256), BitVec.ofNat 8 w, 0, 0, 0, 0, 0, 0⟩ with
    | .ok i => some i
    | .error _ => none
  else none

/-! ### Encoder -/

/-- A row of spec/opcode_table.json: its mnemonic, mask and match, and how many bits they have. -/
structure OpcodeRow where
  mnemonic : String
  nbits : Nat
  mask : BitVec 16
  pattern : BitVec 16
deriving DecidableEq, Repr

/-- A row of a suffix key: mask 0xCF (R70). -/
def keyRow (mnemonic : String) (key : Byte) : OpcodeRow := ⟨mnemonic, 8, 0xCF, key.zeroExtend 16⟩

/-- A row of a family-field class: mask 0x85 (R70). -/
def classRow (mnemonic : String) (m : Byte) : OpcodeRow := ⟨mnemonic, 8, 0x85, m.zeroExtend 16⟩

/-- The instruction's row of spec/opcode_table.json. -/
def Instr.row : Instr → OpcodeRow
  | .addd _ => keyRow "addd" 0xC3
  | .addb _ => keyRow "addb" 0xCB
  | .adca _ => keyRow "adca" 0x89
  | .adcb _ => keyRow "adcb" 0xC9
  | .adda _ => keyRow "adda" 0x8B
  | .subb _ => keyRow "subb" 0xC0
  | .suba _ => keyRow "suba" 0x80
  | .ldaa _ => keyRow "ldaa" 0x86
  | .staa _ => keyRow "staa" 0x87
  | .ldab _ => keyRow "ldab" 0xC6
  | .stab _ => keyRow "stab" 0xC7
  | .subd _ => keyRow "subd" 0x83
  | .ldd _ => keyRow "ldd" 0xCC
  | .std _ => keyRow "std" 0xCD
  | .lds _ => keyRow "lds" 0x8E
  | .sts _ => keyRow "sts" 0x8F
  | .ldx _ => keyRow "ldx" 0xCE
  | .ldy _ => keyRow "ldy" 0xCE
  | .ldCE _ => keyRow "ld" 0xCE
  | .stx _ => keyRow "stx" 0xCF
  | .sty _ => keyRow "sty" 0xCF
  | .stCF _ => keyRow "st" 0xCF
  | .ld84 _ => keyRow "ld" 0x84
  | .ld8C _ => keyRow "ld" 0x8C
  | .ldC4 _ => keyRow "ld" 0xC4
  | .st85 _ => keyRow "st" 0x85
  | .st8D _ => keyRow "st" 0x8D
  | .stC5 _ => keyRow "st" 0xC5
  | .sub82 _ => keyRow "sub" 0x82
  | .sub88 _ => keyRow "sub" 0x88
  | .sub8A _ => keyRow "sub" 0x8A
  | .subC2 _ => keyRow "sub" 0xC2
  | .subC8 _ => keyRow "sub" 0xC8
  | .subCA _ => keyRow "sub" 0xCA
  | .ad81 _ => keyRow "ad" 0x81
  | .adC1 _ => keyRow "ad" 0xC1
  | .esc _ => classRow "ESC" 0x00
  | .escCD => ⟨"ESC", 8, 0xFF, 0xCD⟩
  | .null01 _ => classRow "NULL" 0x01
  | .null04 _ => classRow "NULL" 0x04
  | .null05 _ => classRow "NULL" 0x05
  | .s1 .. => ⟨"S1", 16, 0xFFFF, 0x5331⟩
  | .s9 .. => ⟨"S9", 16, 0xFFFF, 0x5339⟩

/-- A family byte from its suffix key and its mode: `b = v | (b & 0x30)` (R70). -/
def familyByte (key : Byte) (m : Mode) : Byte := key ||| modeBits m

/-- The bytes of an instruction: one opcode byte, or the 8 characters of a record's window (R70, R83). The bytes that
follow (operand bytes, a record's data and checksum) are read when the instruction runs. -/
def encode : Instr → List Byte
  | .addd m => [familyByte 0xC3 m]
  | .addb m => [familyByte 0xCB m]
  | .adca m => [familyByte 0x89 m]
  | .adcb m => [familyByte 0xC9 m]
  | .adda m => [familyByte 0x8B m]
  | .subb m => [familyByte 0xC0 m]
  | .suba m => [familyByte 0x80 m]
  | .ldaa m => [familyByte 0x86 m]
  | .staa m => [familyByte 0x87 m]
  | .ldab m => [familyByte 0xC6 m]
  | .stab m => [familyByte 0xC7 m]
  | .subd m => [familyByte 0x83 m]
  | .ldd m => [familyByte 0xCC m]
  | .std m => [familyByte 0xCD m]
  | .lds m => [familyByte 0x8E m]
  | .sts m => [familyByte 0x8F m]
  | .ldx m => [familyByte 0xCE m]
  | .ldy m => [familyByte 0xCE m]
  | .ldCE m => [familyByte 0xCE m]
  | .stx m => [familyByte 0xCF m]
  | .sty m => [familyByte 0xCF m]
  | .stCF m => [familyByte 0xCF m]
  | .ld84 m => [familyByte 0x84 m]
  | .ld8C m => [familyByte 0x8C m]
  | .ldC4 m => [familyByte 0xC4 m]
  | .st85 m => [familyByte 0x85 m]
  | .st8D m => [familyByte 0x8D m]
  | .stC5 m => [familyByte 0xC5 m]
  | .sub82 m => [familyByte 0x82 m]
  | .sub88 m => [familyByte 0x88 m]
  | .sub8A m => [familyByte 0x8A m]
  | .subC2 m => [familyByte 0xC2 m]
  | .subC8 m => [familyByte 0xC8 m]
  | .subCA m => [familyByte 0xCA m]
  | .ad81 m => [familyByte 0x81 m]
  | .adC1 m => [familyByte 0xC1 m]
  | .esc b => [b]
  | .escCD => [0xCD]
  | .null01 b => [b]
  | .null04 b => [b]
  | .null05 b => [b]
  | .s1 c2 c3 c4 c5 c6 c7 => [charS, char1, c2, c3, c4, c5, c6, c7]
  | .s9 c2 c3 c4 c5 c6 c7 => [charS, char9, c2, c3, c4, c5, c6, c7]

/-- The word a row's mask and match are read against: the opcode byte, or the record's first two characters. -/
def Instr.tableWord (i : Instr) : BitVec 16 :=
  match i.isRecord, encode i with
  | false, b :: _ => b.zeroExtend 16
  | true, c0 :: c1 :: _ => c0 ++ c1
  | _, _ => 0

/-! ### The suffix table -/

/-- `SuffixTable` (R74): the keys whose suffix is fixed and not empty. The keys 0xCE and 0xCF are not in it: their
suffix is the register letter of R105. PRESUMED by the spec itself, from general knowledge (log entry 15). -/
def specSuffixTable : List SuffixRow :=
  [ ⟨0xC3, .dd, true⟩, ⟨0xCB, .db, false⟩, ⟨0x89, .ca, false⟩, ⟨0xC9, .cb, false⟩, ⟨0x8B, .da, false⟩,
    ⟨0xC0, .b, false⟩, ⟨0x80, .a, false⟩, ⟨0x86, .aa, false⟩, ⟨0x87, .aa, false⟩, ⟨0xC6, .ab, false⟩,
    ⟨0xC7, .ab, false⟩, ⟨0x83, .d, true⟩, ⟨0xCC, .d, true⟩, ⟨0xCD, .d, true⟩, ⟨0x8E, .s, true⟩, ⟨0x8F, .s, true⟩ ]

end Sys2Proof
end

