-- ==== Sys2Proof/Machine/State.lean ====
section
/-! DEFINITION. The state of HC11MON-DL, `(CFG, MEM, OPMODE, DEC, DRV, LDR, IN, OUT)` (spec rule R20), the two fields
a deterministic model adds (the host's coming moves, the count of outside reads), the ways a step can stop, and reset. -/

namespace Sys2Proof.Machine

/-- Why a step stops with a fault. -/
inductive Fault where
  /-- Raised by a meaning given a term that no byte encodes (`Instr.wf` is false: `std` in Immediate mode, an `ESC` or
  `NULL` row with a byte outside its mask class). Safe: `step` decodes what it runs, and the decoder answers no such
  term, so no run meets it. -/
  | notEncodable
deriving DecidableEq, Repr

/-- Why a step refuses an instruction. -/
inductive Refusal where
  /-- Raised by an arm of `exec` whose instruction has no meaning. Safe. No arm raises it: every row has its meaning. -/
  | notModelled (mnemonic : String)
deriving DecidableEq, Repr

/-- The MemoryImage (R50): the bytes of the valid window that something has written, as (address, byte) cells, addresses
strictly rising. An address that no cell lists holds its launch byte. -/
abbrev Memory := List Host.Cell

/-- `OPMODE`, the operation in progress (R22). -/
inductive OpMode where
  | idle | decode | disasm | load
deriving DecidableEq, Repr

/-- The result record of one decode (R28). -/
structure DecodedInstruction where
  address : Addr
  consumedBytes : Nat
  mnemonic : String
  operandText : String
  valid : Bool
deriving DecidableEq, Repr

/-- The error kinds of R230. -/
inductive ErrorKind where
  | decodeFailure | boundsError | formatError | checksumError | streamEndError | rangeError
deriving DecidableEq, Repr

/-- The errors an operation can return, each with the info R232 to R236 record. -/
inductive Error where
  /-- `BoundsError`: the rejected address and the window it is outside; the line inside a load (R232). -/
  | bounds (line : Option Nat) (address lo hi : Addr)
  /-- `FormatError` (R233). -/
  | format (line : Nat)
  /-- `ChecksumError` (R234). -/
  | checksum (line : Nat) (computed transmitted : Byte)
  /-- `StreamEndError` (R235). -/
  | streamEnd (line : Nat)
  /-- `RangeError` (R236). -/
  | range (start stop : Addr)
deriving DecidableEq, Repr

/-- The events the block emits to the host (R34). -/
inductive Event where
  /-- `Org(a)`, the driver's opening bookend (R163). -/
  | org (a : Addr)
  /-- `Instr(d, raw)` (R168). -/
  | instr (d : DecodedInstruction) (raw : List Byte)
  /-- `End(a)`, the driver's closing bookend (R167). -/
  | endMark (a : Addr)
  /-- `Progress`, one per accepted data record (R197). -/
  | progress
  /-- `Summary(first, written)` (R202). -/
  | summary (first : Option Addr) (written : Nat)
  /-- `Report(kind, info)` (R245). -/
  | report (kind : ErrorKind) (info : Error)
deriving DecidableEq, Repr

/-- What the last operation returned to the host (R11). -/
inductive Returned where
  /-- No operation has returned since reset. -/
  | nothing
  /-- A `decode`'s result record (R28). -/
  | decoded (d : DecodedInstruction)
  /-- `disasm` returned `Ok` (R164). -/
  | disasmOk
  /-- `load` returned `Ok(Summary(first, written))` (R187). -/
  | loadOk (first : Option Addr) (written : Nat)
  /-- An operation returned `Err(kind, info)` (R11). -/
  | err (kind : ErrorKind) (info : Error)
deriving DecidableEq, Repr

/-- One item of the character input stream: a character, or the host's end-of-stream signal (R33, R182; log entry 11). -/
inductive StreamItem where
  | char (c : Byte)
  | eos
deriving DecidableEq, Repr

/-- What the host can do (R6, R33, R59, R182, R260). -/
inductive HostMove where
  /-- Request `decode(a)`; taken when `OPMODE = IDLE` (R244). -/
  | requestDecode (a : Addr)
  /-- Request `disasm(start, stop)`; taken when `OPMODE = IDLE`. -/
  | requestDisasm (start stop : Addr)
  /-- Request `load()`; taken when `OPMODE = IDLE`. -/
  | requestLoad
  /-- Write a byte of memory between operations, as the excluded `mm` command (R59). -/
  | writeByte (a : Addr) (v : Byte)
  /-- Deliver a character to the input stream (R182). -/
  | deliver (c : Byte)
  /-- Signal end of stream (R182). -/
  | endStream
  /-- Hardware reset, at any time (R260). -/
  | reset
  /-- Make no move while the block takes one step. -/
  | stay
deriving DecidableEq, Repr

/-- Where a load stands between two characters it takes (R182, R200; log entry 16). -/
inductive LoadPhase where
  /-- Filling the window: `taken` characters are in it (R185). -/
  | fill (taken : Fin 8)
  /-- The window is full and is looked at: a record, or slide on (R186). -/
  | scan
  /-- In a data record, `left` data pairs to go; `hi` is the first character of a pair half taken (R184, R193). -/
  | data (left : Nat) (hi : Option Byte)
  /-- In a data record, at its checksum pair (R195). -/
  | check (hi : Option Byte)
  /-- The buffered writes of an accepted record, one after another (R199). -/
  | commit
deriving DecidableEq, Repr

/-- `DEC`, the decoder's working registers and result (R23 to R30). -/
structure Dec where
  /-- `DA`, the address the decode started at (R23). -/
  da : Addr
  /-- `K`, the escape bytes this decode has skipped (R23). -/
  k : Nat
  /-- `PB`, `precedingByte`; 0x00 means unset (R24). -/
  pb : Byte
  /-- `FB`, the family byte (R25). -/
  fb : Byte
  /-- `FAM`, the matched family (R25). -/
  fam : Family
  /-- `SFX`, the suffix (R26). -/
  sfx : Suffix
  /-- `IS16`, the flag is16Bit (R30). -/
  is16 : Bool
  /-- `OPN`, the operand bytes rendered (R27). -/
  opn : Nat
  /-- `EXTRA`, 1 when a leading zero byte was skipped (R27). -/
  extra : Nat
  /-- `OT`, the operand text (R27). -/
  ot : String
  /-- The last decode's result, the flag `valid` in it (R28, R29). -/
  result : DecodedInstruction
deriving DecidableEq, Repr

/-- `DRV`, the driver's registers (R31). -/
structure Drv where
  /-- `START`. -/
  start : Addr
  /-- `END`. -/
  stop : Addr
  /-- `CUR`, a natural number that never wraps. -/
  cur : Nat
deriving DecidableEq, Repr

/-- `LDR`, the loader's registers (R32), the line buffer of R199, and where the load stands. -/
structure Ldr where
  /-- `W`, the lookahead window. -/
  w : Window
  /-- `LINE`, the line counter. -/
  line : Nat
  /-- `N`, `byteCount`. -/
  n : Byte
  /-- `LA`, `loadAddress`. -/
  la : Addr
  /-- `ACC`, the checksum accumulator. -/
  acc : Byte
  /-- `WC`, the write cursor. -/
  wc : Addr
  /-- `WRITTEN`, data bytes written by this load. -/
  written : Nat
  /-- `FIRST`, the first load address, or none. -/
  first : Option Addr
  /-- `T`, the transmitted checksum. -/
  t : Byte
  /-- `F`, `finalChecksum`. -/
  f : Byte
  /-- The line buffer of `P_LINE_COMMIT = buffered` (R199). -/
  lineBuf : List (Addr × Byte)
  /-- Where the load stands between two characters. -/
  phase : LoadPhase
deriving DecidableEq, Repr

/-- The state of the block. -/
structure State where
  /-- `CFG`, the instance's parameters (R21). -/
  cfg : Config
  /-- `MEM`, the MemoryImage (R50). -/
  mem : Memory
  /-- `OPMODE` (R22). -/
  opmode : OpMode
  /-- `DEC` (R23 to R30). -/
  dec : Dec
  /-- `DRV` (R31). -/
  drv : Drv
  /-- `LDR` (R32). -/
  ldr : Ldr
  /-- `IN`, what the host has delivered and the block has not taken (R33). -/
  inp : List StreamItem
  /-- `OUT`, the events emitted since reset, oldest first (R34). -/
  out : List Event
  /-- What the last operation returned (R11; log entry 19). -/
  ret : Returned
  /-- The MODEL's own: the moves the host is going to make, in order (R6; log entry 2). -/
  host : List HostMove
  /-- The MODEL's own: how many outside reads have been drawn (R51; log entry 1). -/
  draws : Nat
deriving DecidableEq, Repr

/-- The configuration at reset: the spec's values (R7), with instance T of 92_eei_decisions.md D6 for the OPEN load
window and 0x00 for the OPEN progress character (log entry 5). -/
def resetConfig : Config where
  min := 0x0400
  max := 0x7DFF
  lfStart := 0x1000
  lfMax := 0x6FFF
  escBudget := 3
  suffixTable := specSuffixTable
  xyIs16 := false
  driverWindowCheck := true
  lineCommit := .writeThrough
  progressChar := 0x00

/-- `DEC` after reset: R36 leaves every register unspecified; the model names zero, and for the result the NULL record
of a decode at 0 (log entry 4). -/
def resetDec : Dec where
  da := 0
  k := 0
  pb := 0x00
  fb := 0x00
  fam := .ld
  sfx := .bare
  is16 := false
  opn := 0
  extra := 0
  ot := ""
  result := ⟨0, 1, "NULL", "", false⟩

/-- `DRV` after reset: unspecified by R36, named zero (log entry 4). -/
def resetDrv : Drv where
  start := 0
  stop := 0
  cur := 0

/-- `LDR` after reset: unspecified by R36, named zero (log entry 4). -/
def resetLdr : Ldr where
  w := ⟨0, 0, 0, 0, 0, 0, 0, 0⟩
  line := 0
  n := 0
  la := 0
  acc := 0
  wc := 0
  written := 0
  first := none
  t := 0
  f := 0
  lineBuf := []
  phase := .fill 0

/-- The machine right after reset (R36, R260): `OPMODE` is `IDLE`, `OUT` is empty, no character is in `IN`, every memory
byte is the launch parameter's, and the block waits for the host to request an operation. -/
def State.reset : State where
  cfg := resetConfig
  mem := []
  opmode := .idle
  dec := resetDec
  drv := resetDrv
  ldr := resetLdr
  inp := []
  out := []
  ret := .nothing
  host := []
  draws := 0

end Sys2Proof.Machine
end

