-- ==== Sys2Proof/Machine/Ops.lean ====
section
/-! DEFINITION. The named operations over memory, the streams and the registers, and ending an operation: with a value,
or with an error, which is the block's only exception (spec rules R9 to R11, R50 to R64, R230 to R245). -/

namespace Sys2Proof.Machine

/-! ### Memory -/

/-- The byte memory holds at an address: the last one written there, or the launch byte (R61). -/
def Memory.read (m : Memory) (a : Nat) : Byte := (m.lookup a).getD (Config.launchByte a)

/-- Memory with one byte written, in canonical form. -/
def Memory.write : Memory → Nat → Byte → Memory
  | [], a, v => [(a, v)]
  | (b, w) :: rest, a, v =>
    if a < b then (a, v) :: (b, w) :: rest
    else if a = b then (a, v) :: rest
    else (b, w) :: Memory.write rest a v

/-- Addresses strictly rising from `lo` on. -/
def Memory.wfFrom : Nat → Memory → Bool
  | _, [] => true
  | lo, (a, _) :: rest => decide (lo ≤ a) && Memory.wfFrom (a + 1) rest

/-- The canonical form of memory: one cell for an address, in rising order. What an address reads as before a write is a
free value, so no cell is known to equal it (log entry 3). -/
def Memory.wf (m : Memory) : Bool := Memory.wfFrom 0 m

/-- `MIN <= a <= MAX` (R50). -/
def inWindow (c : Config) (a : Addr) : Bool := decide (c.min ≤ a) && decide (a ≤ c.max)

/-- `LF_START <= a <= LF_MAX` (R189). -/
def inLoadWindow (c : Config) (a : Addr) : Bool := decide (c.lfStart ≤ a) && decide (a ≤ c.lfMax)

/-- `MemRead(a, 1)` (R51): unchecked; outside [MIN, MAX] a fresh `OutsideRead` draw. -/
def memRead (a : Addr) (s : State) : Byte × State :=
  if inWindow s.cfg a then (s.mem.read a.toNat, s)
  else (Config.outsideRead s.draws a, { s with draws := s.draws + 1 })

/-- `MemWrite(a, 1, v)` (R52): outside [MIN, MAX] it fails and no byte changes. `line` is the load's line counter when a
load writes, which the error then also records (R232). -/
def memWrite (line : Option Nat) (a : Addr) (v : Byte) (s : State) : Except Error State :=
  if inWindow s.cfg a then .ok { s with mem := s.mem.write a.toNat v }
  else .error (.bounds line a s.cfg.min s.cfg.max)

/-- The bytes at `a, a + 1, …` (mod 2^16), `n` of them, one `MemRead` after another (R164). -/
def readBytes : Nat → Addr → State → List Byte × State
  | 0, _, s => ([], s)
  | n + 1, a, s =>
    let r := memRead a s
    let rest := readBytes n (a + 1) r.2
    (r.1 :: rest.1, rest.2)

/-- Bytes written from an address on. -/
def placeBytes : List Byte → Nat → Memory → Memory
  | [], _, m => m
  | b :: rest, a, m => placeBytes rest (a + 1) (m.write a b)

/-! ### Numbers made of bytes -/

/-- `{hi, lo}` (R8, R56): the byte at the lower address, or the first pair, is the high half. -/
def wordOf (hi lo : Byte) : Addr := hi ++ lo

/-- One upper-case hex digit of a value below 16. -/
def hexDigit (n : Nat) : String :=
  match n with
  | 0 => "0" | 1 => "1" | 2 => "2" | 3 => "3" | 4 => "4" | 5 => "5" | 6 => "6" | 7 => "7"
  | 8 => "8" | 9 => "9" | 10 => "A" | 11 => "B" | 12 => "C" | 13 => "D" | 14 => "E" | _ => "F"

/-- `hex2(b)`: the two-character upper-case hexadecimal spelling of a byte (R10). -/
def hex2 (b : Byte) : String := hexDigit (b.toNat / 16) ++ hexDigit (b.toNat % 16)

/-- `HexVal(c)` (R84, R183): `none` is the sentinel failure value. -/
def hexVal (c : Byte) : Option Byte :=
  if 0x30 ≤ c ∧ c ≤ 0x39 then some (c - 0x30)
  else if 0x41 ≤ c ∧ c ≤ 0x46 then some (c - 0x37)
  else none

/-- `HexPair(c1, c2)` (R84, R184): the high digit first. -/
def hexPair (c1 c2 : Byte) : Option Byte :=
  match hexVal c1, hexVal c2 with
  | some h, some l => some (16 * h + l)
  | _, _ => none

/-! ### Events, errors and the end of an operation -/

/-- `Emit(e)` (R10). -/
def emit (e : Event) (s : State) : State := { s with out := s.out ++ [e] }

/-- The kind of an error (R232 to R236). -/
def Error.kind : Error → ErrorKind
  | .bounds .. => .boundsError
  | .format _ => .formatError
  | .checksum .. => .checksumError
  | .streamEnd _ => .streamEndError
  | .range .. => .rangeError

/-- The numeric code of an error kind (R230, D28). -/
def ErrorKind.code : ErrorKind → Nat
  | .decodeFailure => 1
  | .boundsError => 2
  | .formatError => 3
  | .checksumError => 4
  | .streamEndError => 5
  | .rangeError => 6

/-- `raise` (R11, R198, R239, R240, R245): the block's one exception entry. It emits exactly one `Report`, the operation
returns `Err` and `OPMODE` becomes `IDLE`. Nothing is saved, no mode or mask changes, there is no handler address, and
every change already made stays. -/
def raise (e : Error) (s : State) : State :=
  { emit (.report e.kind e) s with ret := .err e.kind e, opmode := .idle }

/-- An operation ends with `Ok` (R11, R22). The block has no return from an exception (R241): an operation that ended
with an error has already given control back. -/
def finish (r : Returned) (s : State) : State := { s with ret := r, opmode := .idle }

/-! ### The character input stream -/

/-- The stream's normalisation of `'\r'` to `'\n'` (R33, R88). -/
def normalizeChar (c : Byte) : Byte := if c = 0x0D then 0x0A else c

/-- `RecvChar()` in a load, and what is done with the character (R182): with nothing delivered the block waits and its
state stays as it is; at the end of the stream it raises `StreamEndError`. -/
def recvChar (use : Byte → State → State) (s : State) : State :=
  match s.inp with
  | [] => s
  | .eos :: rest => raise (.streamEnd s.ldr.line) { s with inp := rest }
  | .char c :: rest => use c { s with inp := rest }

/-! ### Starting a decode -/

/-- The decoder's cursor `(DA + K) mod 2^16` (R23). -/
def cursor (s : State) : Addr := s.dec.da + BitVec.ofNat 16 s.dec.k

/-- The first line of R101's `decode(A)`. -/
def startDecode (a : Addr) (s : State) : State :=
  { s with dec := { s.dec with da := a, k := 0, pb := 0x00, is16 := false } }

/-- The read of the byte at the cursor (R101). -/
def fetchOpcode (s : State) : Byte × State := memRead (cursor s) s

end Sys2Proof.Machine
end

