-- ==== Sys2Proof/Machine/Flags.lean ====
section
/-! DEFINITION. The block's two flags: `IS16` as the suffix stage marks it and the operand stage clears it (spec rules
R30, R104, R107), and `valid` in the result record (R29). -/

namespace Sys2Proof.Machine

/-- The is16Bit mark of a suffix key (R74, R104). The keys 0xCE and 0xCF take `P_XY_IS16` (D9); a key `SuffixTable` does
not list marks nothing (D8). -/
def is16Mark (c : Config) (v : Byte) : Bool :=
  if v = 0xCE ∨ v = 0xCF then c.xyIs16
  else match c.suffixTable.find? (fun r => r.key == v) with
    | some r => r.is16
    | none => false

/-- A decode whose family matched (R29, R109). -/
def validResult (address : Addr) (consumed : Nat) (mnemonic operandText : String) : DecodedInstruction :=
  ⟨address, consumed, mnemonic, operandText, true⟩

/-- `Null(c)` (R103): no family matched. -/
def nullResult (address : Addr) (consumed : Nat) : DecodedInstruction := ⟨address, consumed, "NULL", "", false⟩

end Sys2Proof.Machine
end

