-- ==== Sys2Proof/Machine/Operands.lean ====
section
/-! DEFINITION. The suffix stage and the operand stage: every addressing mode's text and length (spec rules R74 to R77,
R81, R104 to R108). -/

namespace Sys2Proof.Machine

/-- The mnemonic text of a family (R25, R101). -/
def familyText : Family → String
  | .ld => "ld"
  | .st => "st"
  | .sub => "sub"
  | .ad => "ad"

/-- The suffix string (R26). -/
def suffixText : Suffix → String
  | .dd => "dd" | .db => "db" | .ca => "ca" | .cb => "cb" | .da => "da" | .b => "b" | .a => "a" | .aa => "aa"
  | .ab => "ab" | .d => "d" | .s => "s" | .x => "x" | .y => "y" | .bare => ""

/-- `RegLetter(pb)` (R105): the literal order, the X test first. -/
def regLetter (pb : Byte) : Suffix :=
  if pb = 0x00 ∨ pb = 0xCD then .x else if pb = 0x18 then .y else .bare

/-- The suffix `addSuffix` selects for a key after the preceding byte `pb` (R104). -/
def suffixOf (c : Config) (v pb : Byte) : Suffix :=
  if v = 0xCE ∨ v = 0xCF then regLetter pb
  else match c.suffixTable.find? (fun r => r.key == v) with
    | some r => r.sfx
    | none => .bare

/-- `IndexText(pb)` (R108). -/
def indexText (pb : Byte) : String :=
  if pb = 0x00 ∨ pb = 0x1A then ",X" else if pb = 0x18 ∨ pb = 0xCD then ",Y" else ""

/-- The suffix stage (R104): it writes `SFX` and `IS16`. -/
def suffixStage (s : State) : State :=
  let v := suffixKey s.dec.fb
  { s with dec := { s.dec with sfx := suffixOf s.cfg v s.dec.pb, is16 := is16Mark s.cfg v } }

/-- The leading-zero skip of a 16-bit immediate (R107): it writes `EXTRA`, and clears `IS16` when it skips. -/
def zeroSkip (m : Mode) (p : Addr) (s : State) : State :=
  if m == .imm && s.dec.is16 then
    let z := memRead (p + 1) s
    if z.1 = 0x00 then { z.2 with dec := { z.2.dec with is16 := false, extra := 1 } }
    else { z.2 with dec := { z.2.dec with extra := 0 } }
  else { s with dec := { s.dec with extra := 0 } }

/-- The text before the digits: `#` for Immediate, then `$` (R106). -/
def operandLead (m : Mode) : String := if m == .imm then "#$" else "$"

/-- The text after the digits: the index text in Indexed mode (R106, R108). -/
def operandTail (m : Mode) (pb : Byte) : String := if m == .idx then indexText pb else ""

/-- Two operand bytes are rendered: Extended, or an immediate with `IS16` still true (R106). -/
def rendersTwo (m : Mode) (is16 : Bool) : Bool := m == .ext || (m == .imm && is16)

/-- The render of R106: the bytes from `q` on, in memory order. It writes `OT` and `OPN`. -/
def renderOperand (m : Mode) (q : Addr) (s : State) : State :=
  if rendersTwo m s.dec.is16 then
    let h := memRead q s
    let l := memRead (q + 1) h.2
    { l.2 with dec := { l.2.dec with
        ot := operandLead m ++ hex2 h.1 ++ hex2 l.1 ++ operandTail m s.dec.pb, opn := 2 } }
  else
    let h := memRead q s
    { h.2 with dec := { h.2.dec with ot := operandLead m ++ hex2 h.1 ++ operandTail m s.dec.pb, opn := 1 } }

/-- The operand stage `addOperand` for the family byte at `p` (R106). -/
def operandStage (m : Mode) (p : Addr) (s : State) : State :=
  let s1 := zeroSkip m p s
  renderOperand m (p + 1 + BitVec.ofNat 16 s1.dec.extra) s1

end Sys2Proof.Machine
end

