-- ==== Sys2Proof/Machine/Driver.lean ====
section
/-! DEFINITION. The end of a decode, the disassembly driver, and the decoder's shared stages (spec rules R101 to R109,
R160 to R169). -/

namespace Sys2Proof.Machine

/-! ### The driver -/

/-- The head of the driver's loop (R164): another decode at `CUR mod 2^16`, or the closing bookend and `Ok` (R167). -/
def driverNext (s : State) : State :=
  if s.drv.cur ≤ s.drv.stop.toNat then startDecode (BitVec.ofNat 16 s.drv.cur) s
  else finish .disasmOk (emit (.endMark s.drv.stop) s)

/-- The body of the driver's loop after its decode (R164, R165, R168): the raw bytes by a second read, the `Instr` event,
and the advance by `consumedBytes`, whether the decode was valid or not. -/
def driverPass (d : DecodedInstruction) (s : State) : State :=
  let r := readBytes d.consumedBytes (BitVec.ofNat 16 s.drv.cur) s
  let s1 := emit (.instr d r.1) r.2
  driverNext { s1 with drv := { s1.drv with cur := s1.drv.cur + d.consumedBytes } }

/-- R162: the first of START, END that is outside the valid window, when the driver checks. -/
def driverOutside (c : Config) (start stop : Addr) : Option Addr :=
  if !c.driverWindowCheck then none
  else if !inWindow c start then some start
  else if !inWindow c stop then some stop
  else none

/-- The start of `disasm(START, END)` (R161 to R164), up to its first decode. -/
def startDisasm (start stop : Addr) (s : State) : State :=
  let s1 := { s with opmode := .disasm, drv := { s.drv with start := start, stop := stop } }
  if start > stop then raise (.range start stop) s1
  else match driverOutside s.cfg start stop with
    | some a => raise (.bounds none a s.cfg.min s.cfg.max) s1
    | none =>
      let s2 := emit (.org start) s1
      driverNext { s2 with drv := { s2.drv with cur := start.toNat } }

/-! ### The decoder -/

/-- A decode ends with its result record (R28): a driver run goes on with its pass, a stand-alone decode returns it
(log entry 18). -/
def finishDecode (d : DecodedInstruction) (s : State) : State :=
  let s1 := { s with dec := { s.dec with result := d } }
  match s.opmode with
  | .disasm => driverPass d s1
  | _ => finish (.decoded d) s1

/-- The end of the prefix stage at a family byte (R101): `FB` and `FAM` are written. -/
def matchFamily (fam : Family) (key : Byte) (m : Mode) (s : State) : State :=
  { s with dec := { s.dec with fb := familyByte key m, fam := fam } }

/-- The result of a matched family (R109). -/
def familyResult (s : State) : DecodedInstruction :=
  validResult s.dec.da (s.dec.k + 1 + (s.dec.opn + s.dec.extra)) (familyText s.dec.fam ++ suffixText s.dec.sfx) s.dec.ot

/-- What R101 does at a family byte of the given key and mode: the suffix stage, the operand stage, the result. -/
def familyStages (fam : Family) (key : Byte) (m : Mode) (s : State) : State :=
  operandStage m (cursor s) (suffixStage (matchFamily fam key m s))

/-- A family byte ends the decode (R101, R109). -/
def decodeFamily (fam : Family) (key : Byte) (m : Mode) (s : State) : State :=
  let s1 := familyStages fam key m s
  finishDecode (familyResult s1) s1

/-- The decode ends as NULL with `K + 1` bytes (R103): `FB`, `FAM` and `SFX` are not written. -/
def decodeNull (s : State) : State := finishDecode (nullResult s.dec.da (s.dec.k + 1)) s

/-- An escape byte (R102): remembered and skipped while the budget lasts; the one after it ends the decode as NULL. -/
def decodeEscape (b : Byte) (s : State) : State :=
  if s.dec.k < s.cfg.escBudget then { s with dec := { s.dec with pb := b, k := s.dec.k + 1 } }
  else decodeNull s

end Sys2Proof.Machine
end

