-- ==== Sys2Proof/Machine/Add.lean ====
section
/-! DEFINITION. The meanings of the add family's rows (spec rules R138 to R143), each the shared stages of R101 to R109 at its own
suffix key. -/

namespace Sys2Proof.Machine

/-- `adda`, key 0x8B (R138). -/
def execAdda (m : Mode) (s : State) : Host.Outcome State Fault Refusal := .next (decodeFamily .ad 0x8B m s)

/-- `addb`, key 0xCB (R139). -/
def execAddb (m : Mode) (s : State) : Host.Outcome State Fault Refusal := .next (decodeFamily .ad 0xCB m s)

/-- `addd`, key 0xC3 (R140). -/
def execAddd (m : Mode) (s : State) : Host.Outcome State Fault Refusal := .next (decodeFamily .ad 0xC3 m s)

/-- `adca`, key 0x89 (R141). -/
def execAdca (m : Mode) (s : State) : Host.Outcome State Fault Refusal := .next (decodeFamily .ad 0x89 m s)

/-- `adcb`, key 0xC9 (R142). -/
def execAdcb (m : Mode) (s : State) : Host.Outcome State Fault Refusal := .next (decodeFamily .ad 0xC9 m s)

/-- `ad`, key 0x81 (R143). -/
def execAd81 (m : Mode) (s : State) : Host.Outcome State Fault Refusal := .next (decodeFamily .ad 0x81 m s)

/-- `ad`, key 0xC1 (R143). -/
def execAdC1 (m : Mode) (s : State) : Host.Outcome State Fault Refusal := .next (decodeFamily .ad 0xC1 m s)

end Sys2Proof.Machine
end

