-- ==== Sys2Proof/Machine/Escape.lean ====
section
/-! DEFINITION. The meanings of the escape and no-match rows (spec rules R102, R103, R144, R145). -/

namespace Sys2Proof.Machine

/-- `ESC`, a byte of the class `b & 0x85 = 0x00` (R102, R144). -/
def execEsc (b : Byte) (s : State) : Host.Outcome State Fault Refusal :=
  if b &&& familyMask = 0x00 then .next (decodeEscape b s) else .fault .notEncodable

/-- `ESC`, the byte 0xCD (R102, R144). -/
def execEscCD (s : State) : Host.Outcome State Fault Refusal := .next (decodeEscape 0xCD s)

/-- `NULL`, a byte of the class `b & 0x85 = 0x01` (R103, R145). -/
def execNull01 (b : Byte) (s : State) : Host.Outcome State Fault Refusal :=
  if b &&& familyMask = 0x01 then .next (decodeNull s) else .fault .notEncodable

/-- `NULL`, a byte of the class `b & 0x85 = 0x04` (R103, R145). -/
def execNull04 (b : Byte) (s : State) : Host.Outcome State Fault Refusal :=
  if b &&& familyMask = 0x04 then .next (decodeNull s) else .fault .notEncodable

/-- `NULL`, a byte of the class `b & 0x85 = 0x05` (R103, R145). -/
def execNull05 (b : Byte) (s : State) : Host.Outcome State Fault Refusal :=
  if b &&& familyMask = 0x05 then .next (decodeNull s) else .fault .notEncodable

end Sys2Proof.Machine
end

