-- ==== Sys2Proof/Machine/Load.lean ====
section
/-! DEFINITION. The meanings of the load family's rows (spec rules R120 to R126), each the shared stages of R101 to R109 at its own
suffix key. -/

namespace Sys2Proof.Machine

/-- `ldaa`, key 0x86 (R120). -/
def execLdaa (m : Mode) (s : State) : Host.Outcome State Fault Refusal := .next (decodeFamily .ld 0x86 m s)

/-- `ldab`, key 0xC6 (R121). -/
def execLdab (m : Mode) (s : State) : Host.Outcome State Fault Refusal := .next (decodeFamily .ld 0xC6 m s)

/-- `ldd`, key 0xCC (R122). -/
def execLdd (m : Mode) (s : State) : Host.Outcome State Fault Refusal := .next (decodeFamily .ld 0xCC m s)

/-- `lds`, key 0x8E (R123). -/
def execLds (m : Mode) (s : State) : Host.Outcome State Fault Refusal := .next (decodeFamily .ld 0x8E m s)

/-- `ldx`, key 0xCE, with `PB` 0x00 or 0xCD (R124). -/
def execLdx (m : Mode) (s : State) : Host.Outcome State Fault Refusal := .next (decodeFamily .ld 0xCE m s)

/-- `ldy`, key 0xCE, with `PB` 0x18 (R125). -/
def execLdy (m : Mode) (s : State) : Host.Outcome State Fault Refusal := .next (decodeFamily .ld 0xCE m s)

/-- `ld`, key 0xCE, with any other `PB` (R126). -/
def execLdCE (m : Mode) (s : State) : Host.Outcome State Fault Refusal := .next (decodeFamily .ld 0xCE m s)

/-- `ld`, key 0x84 (R126). -/
def execLd84 (m : Mode) (s : State) : Host.Outcome State Fault Refusal := .next (decodeFamily .ld 0x84 m s)

/-- `ld`, key 0x8C (R126). -/
def execLd8C (m : Mode) (s : State) : Host.Outcome State Fault Refusal := .next (decodeFamily .ld 0x8C m s)

/-- `ld`, key 0xC4 (R126). -/
def execLdC4 (m : Mode) (s : State) : Host.Outcome State Fault Refusal := .next (decodeFamily .ld 0xC4 m s)

end Sys2Proof.Machine
end

