-- ==== Sys2Proof/Machine/Record.lean ====
section
/-! DEFINITION. The record loader: the window, the scan, and the meanings of the `S1` and `S9` rows (spec rules R180 to
R211). A data record runs in one step over the characters at hand; with none left it waits where it stands and goes on
when the host delivers (R182). The buffered writes of an accepted record take a step each (R199, R260). -/

namespace Sys2Proof.Machine

/-! ### Finding a record -/

/-- The start of `load()` (R181). -/
def startLoad (s : State) : State :=
  { s with opmode := .load, ldr := { s.ldr with line := 1, written := 0, first := none, phase := .fill 0 } }

/-- The window with its character `i` replaced. -/
def setWindowChar (w : Window) (i : Fin 8) (c : Byte) : Window :=
  match i.val with
  | 0 => { w with c0 := c }
  | 1 => { w with c1 := c }
  | 2 => { w with c2 := c }
  | 3 => { w with c3 := c }
  | 4 => { w with c4 := c }
  | 5 => { w with c5 := c }
  | 6 => { w with c6 := c }
  | _ => { w with c7 := c }

/-- `W[1..7] ++ [c]` (R186). -/
def shiftWindow (w : Window) (c : Byte) : Window := ⟨w.c1, w.c2, w.c3, w.c4, w.c5, w.c6, w.c7, c⟩

/-- One character of the window fill (R185): the scan begins once the window is full. -/
def fillWindow (i : Fin 8) (c : Byte) (s : State) : State :=
  { s with ldr := { s.ldr with
      w := setWindowChar s.ldr.w i c
      phase := if h : i.val + 1 < 8 then .fill ⟨i.val + 1, h⟩ else .scan } }

/-- One slide of the scan (R186). -/
def slideWindow (c : Byte) (s : State) : State :=
  { s with ldr := { s.ldr with w := shiftWindow s.ldr.w c } }

/-! ### A data record's bytes -/

/-- The phase with `left` data pairs to go: after the last comes the checksum (R192, R195). -/
def pairPhase (left : Nat) : LoadPhase := if left = 0 then .check none else .data left none

/-- The write of a data byte at `WC` (R193, R194), or its place in the line buffer (R199). -/
def commitByte (d : Byte) (s : State) : Except Error State :=
  match s.cfg.lineCommit with
  | .writeThrough =>
    match memWrite (some s.ldr.line) s.ldr.wc d s with
    | .ok s1 => .ok { s1 with ldr := { s1.ldr with written := s1.ldr.written + 1 } }
    | .error e => .error e
  | .buffered => .ok { s with ldr := { s.ldr with lineBuf := s.ldr.lineBuf ++ [(s.ldr.wc, d)] } }

/-- A data byte (R193): the accumulator, then the write, then the cursor. -/
def dataByte (left : Nat) (d : Byte) (s : State) : State × Bool :=
  let s1 := { s with ldr := { s.ldr with acc := s.ldr.acc + d } }
  match commitByte d s1 with
  | .ok s2 => ({ s2 with ldr := { s2.ldr with wc := s2.ldr.wc + 1, phase := pairPhase (left - 1) } }, true)
  | .error e => (raise e s1, false)

/-- A data pair is complete (R184, R193). -/
def dataPair (left : Nat) (c1 c2 : Byte) (s : State) : State × Bool :=
  match hexPair c1 c2 with
  | some d => dataByte left d s
  | none => (raise (.format s.ldr.line) s, false)

/-- `Progress`, the line counter, a new window (R197). -/
def nextRecord (s : State) : State :=
  let s1 := emit .progress s
  { s1 with ldr := { s1.ldr with line := s1.ldr.line + 1, phase := .fill 0 } }

/-- An accepted record (R197); a buffered one now has its writes to make (R199). -/
def acceptRecord (s : State) : State :=
  match s.cfg.lineCommit with
  | .writeThrough => nextRecord s
  | .buffered => { s with ldr := { s.ldr with phase := .commit } }

/-- One buffered write of an accepted record, the oldest in the buffer; with none left the record is done, and a rejected
one ends the load (R199). `WRITTEN` counts the writes (R32; DEDUCED, log entry 13). -/
def commitNext (s : State) : State :=
  match s.ldr.lineBuf with
  | [] => nextRecord s
  | (a, d) :: rest =>
    match memWrite (some s.ldr.line) a d s with
    | .ok s1 => { s1 with ldr := { s1.ldr with written := s1.ldr.written + 1, lineBuf := rest } }
    | .error e => raise e s

/-- The checksum check (R196): a transmitted 0x00 always fails. -/
def checkRecord (t : Byte) (s : State) : State :=
  let f := ~~~ s.ldr.acc
  let s1 := { s with ldr := { s.ldr with t := t, f := f } }
  if f ≠ t ∨ t = 0x00 then raise (.checksum s.ldr.line f t) s1 else acceptRecord s1

/-- The checksum pair is complete (R195). -/
def checkPair (c1 c2 : Byte) (s : State) : State :=
  match hexPair c1 c2 with
  | some t => checkRecord t s
  | none => raise (.format s.ldr.line) s

/-- One character of a data record: the state after it, and whether the record still takes characters. A pair takes both
of its characters before either is decoded (R184, D20). -/
def recordChar (c : Byte) (s : State) : State × Bool :=
  match s.ldr.phase with
  | .data left none => ({ s with ldr := { s.ldr with phase := .data left (some c) } }, true)
  | .data left (some h) => dataPair left h c s
  | .check none => ({ s with ldr := { s.ldr with phase := .check (some c) } }, true)
  | .check (some h) => (checkPair h c s, false)
  | .fill _ => (s, false)
  | .scan => (s, false)
  | .commit => (s, false)

/-- A data record over the characters at hand (R193 to R198). With none left it waits (R182). -/
def runRecord : List StreamItem → State → State
  | [], s => { s with inp := [] }
  | .eos :: rest, s => raise (.streamEnd s.ldr.line) { s with inp := rest }
  | .char c :: rest, s =>
    let r := recordChar c { s with inp := rest }
    if r.2 then runRecord rest r.1 else r.1

/-! ### The two record rows -/

/-- A data record's registers after its header passed the load-window check (R190 to R192). -/
def seedRecord (n ah al : Byte) (s : State) : State :=
  { s with ldr := { s.ldr with
      first := s.ldr.first.or (some (wordOf ah al))
      acc := ah + al + n
      wc := wordOf ah al
      lineBuf := []
      phase := pairPhase (n.toNat - 3) } }

/-- A data record with a decoded header (R188 to R198). -/
def dataRecord (n ah al : Byte) (s : State) : State :=
  let la := wordOf ah al
  let s1 := { s with ldr := { s.ldr with n := n, la := la } }
  if inLoadWindow s.cfg la then
    let s2 := seedRecord n ah al s1
    runRecord s2.inp s2
  else raise (.bounds (some s.ldr.line) la s.cfg.lfStart s.cfg.lfMax) s1

/-- `S1` (R188, R210): the header's three hex pairs, then the record (`N` and `LA` of a bad header: log entry 14). -/
def execS1 (c2 c3 c4 c5 c6 c7 : Byte) (s : State) : Host.Outcome State Fault Refusal :=
  match hexPair c2 c3, hexPair c4 c5, hexPair c6 c7 with
  | some n, some ah, some al => .next (dataRecord n ah al s)
  | _, _, _ => .next (raise (.format s.ldr.line) s)

/-- The summary of a load (R187, R202). -/
def endLoad (s : State) : State :=
  finish (.loadOk s.ldr.first s.ldr.written) (emit (.summary s.ldr.first s.ldr.written) s)

/-- `S9` (R187, R211): its characters 2..7 are neither decoded nor checked. -/
def execS9 (_c2 _c3 _c4 _c5 _c6 _c7 : Byte) (s : State) : Host.Outcome State Fault Refusal := .next (endLoad s)

end Sys2Proof.Machine
end

