-- ==== Sys2Proof/Machine/Store.lean ====
section
/-! DEFINITION. The meanings of the store family's rows (spec rules R127 to R133), each the shared stages of R101 to R109 at its own
suffix key. -/

namespace Sys2Proof.Machine

/-- `staa`, key 0x87 (R127). -/
def execStaa (m : Mode) (s : State) : Host.Outcome State Fault Refusal := .next (decodeFamily .st 0x87 m s)

/-- `stab`, key 0xC7 (R128). -/
def execStab (m : Mode) (s : State) : Host.Outcome State Fault Refusal := .next (decodeFamily .st 0xC7 m s)

/-- `std`, key 0xCD (R129): Direct, Indexed and Extended. No byte encodes an Immediate form. -/
def execStd (m : Mode) (s : State) : Host.Outcome State Fault Refusal :=
  if m = .imm then .fault .notEncodable else .next (decodeFamily .st 0xCD m s)

/-- `sts`, key 0x8F (R130). -/
def execSts (m : Mode) (s : State) : Host.Outcome State Fault Refusal := .next (decodeFamily .st 0x8F m s)

/-- `stx`, key 0xCF, with `PB` 0x00 or 0xCD (R131). -/
def execStx (m : Mode) (s : State) : Host.Outcome State Fault Refusal := .next (decodeFamily .st 0xCF m s)

/-- `sty`, key 0xCF, with `PB` 0x18 (R132). -/
def execSty (m : Mode) (s : State) : Host.Outcome State Fault Refusal := .next (decodeFamily .st 0xCF m s)

/-- `st`, key 0xCF, with any other `PB` (R133). -/
def execStCF (m : Mode) (s : State) : Host.Outcome State Fault Refusal := .next (decodeFamily .st 0xCF m s)

/-- `st`, key 0x85 (R133). -/
def execSt85 (m : Mode) (s : State) : Host.Outcome State Fault Refusal := .next (decodeFamily .st 0x85 m s)

/-- `st`, key 0x8D (R133). -/
def execSt8D (m : Mode) (s : State) : Host.Outcome State Fault Refusal := .next (decodeFamily .st 0x8D m s)

/-- `st`, key 0xC5 (R133). -/
def execStC5 (m : Mode) (s : State) : Host.Outcome State Fault Refusal := .next (decodeFamily .st 0xC5 m s)

end Sys2Proof.Machine
end

