-- ==== Sys2Proof/Machine/Subtract.lean ====
section
/-! DEFINITION. The meanings of the subtract family's rows (spec rules R134 to R137), each the shared stages of R101 to R109 at its own
suffix key. -/

namespace Sys2Proof.Machine

/-- `suba`, key 0x80 (R134). -/
def execSuba (m : Mode) (s : State) : Host.Outcome State Fault Refusal := .next (decodeFamily .sub 0x80 m s)

/-- `subb`, key 0xC0 (R135). -/
def execSubb (m : Mode) (s : State) : Host.Outcome State Fault Refusal := .next (decodeFamily .sub 0xC0 m s)

/-- `subd`, key 0x83 (R136). -/
def execSubd (m : Mode) (s : State) : Host.Outcome State Fault Refusal := .next (decodeFamily .sub 0x83 m s)

/-- `sub`, key 0x82 (R137). -/
def execSub82 (m : Mode) (s : State) : Host.Outcome State Fault Refusal := .next (decodeFamily .sub 0x82 m s)

/-- `sub`, key 0x88 (R137). -/
def execSub88 (m : Mode) (s : State) : Host.Outcome State Fault Refusal := .next (decodeFamily .sub 0x88 m s)

/-- `sub`, key 0x8A (R137). -/
def execSub8A (m : Mode) (s : State) : Host.Outcome State Fault Refusal := .next (decodeFamily .sub 0x8A m s)

/-- `sub`, key 0xC2 (R137). -/
def execSubC2 (m : Mode) (s : State) : Host.Outcome State Fault Refusal := .next (decodeFamily .sub 0xC2 m s)

/-- `sub`, key 0xC8 (R137). -/
def execSubC8 (m : Mode) (s : State) : Host.Outcome State Fault Refusal := .next (decodeFamily .sub 0xC8 m s)

/-- `sub`, key 0xCA (R137). -/
def execSubCA (m : Mode) (s : State) : Host.Outcome State Fault Refusal := .next (decodeFamily .sub 0xCA m s)

end Sys2Proof.Machine
end

