-- ==== Sys2Proof/Machine/Dispatch.lean ====
section
/-! DEFINITION. exec: one arm per row of spec/opcode_table.json, each one call of the row's meaning. -/

namespace Sys2Proof.Machine

def exec (i : Instr) (s : State) : Host.Outcome State Fault Refusal :=
  match i with
  | .addd m => Sys2Proof.Machine.execAddd m s
  | .addb m => Sys2Proof.Machine.execAddb m s
  | .adca m => Sys2Proof.Machine.execAdca m s
  | .adcb m => Sys2Proof.Machine.execAdcb m s
  | .adda m => Sys2Proof.Machine.execAdda m s
  | .subb m => Sys2Proof.Machine.execSubb m s
  | .suba m => Sys2Proof.Machine.execSuba m s
  | .ldaa m => Sys2Proof.Machine.execLdaa m s
  | .staa m => Sys2Proof.Machine.execStaa m s
  | .ldab m => Sys2Proof.Machine.execLdab m s
  | .stab m => Sys2Proof.Machine.execStab m s
  | .subd m => Sys2Proof.Machine.execSubd m s
  | .ldd m => Sys2Proof.Machine.execLdd m s
  | .std m => Sys2Proof.Machine.execStd m s
  | .lds m => Sys2Proof.Machine.execLds m s
  | .sts m => Sys2Proof.Machine.execSts m s
  | .ldx m => Sys2Proof.Machine.execLdx m s
  | .ldy m => Sys2Proof.Machine.execLdy m s
  | .ldCE m => Sys2Proof.Machine.execLdCE m s
  | .stx m => Sys2Proof.Machine.execStx m s
  | .sty m => Sys2Proof.Machine.execSty m s
  | .stCF m => Sys2Proof.Machine.execStCF m s
  | .ld84 m => Sys2Proof.Machine.execLd84 m s
  | .ld8C m => Sys2Proof.Machine.execLd8C m s
  | .ldC4 m => Sys2Proof.Machine.execLdC4 m s
  | .st85 m => Sys2Proof.Machine.execSt85 m s
  | .st8D m => Sys2Proof.Machine.execSt8D m s
  | .stC5 m => Sys2Proof.Machine.execStC5 m s
  | .sub82 m => Sys2Proof.Machine.execSub82 m s
  | .sub88 m => Sys2Proof.Machine.execSub88 m s
  | .sub8A m => Sys2Proof.Machine.execSub8A m s
  | .subC2 m => Sys2Proof.Machine.execSubC2 m s
  | .subC8 m => Sys2Proof.Machine.execSubC8 m s
  | .subCA m => Sys2Proof.Machine.execSubCA m s
  | .ad81 m => Sys2Proof.Machine.execAd81 m s
  | .adC1 m => Sys2Proof.Machine.execAdC1 m s
  | .esc b => Sys2Proof.Machine.execEsc b s
  | .escCD => Sys2Proof.Machine.execEscCD s
  | .null01 b => Sys2Proof.Machine.execNull01 b s
  | .null04 b => Sys2Proof.Machine.execNull04 b s
  | .null05 b => Sys2Proof.Machine.execNull05 b s
  | .s1 c2 c3 c4 c5 c6 c7 => Sys2Proof.Machine.execS1 c2 c3 c4 c5 c6 c7 s
  | .s9 c2 c3 c4 c5 c6 c7 => Sys2Proof.Machine.execS9 c2 c3 c4 c5 c6 c7 s

end Sys2Proof.Machine
end

