-- ==== Sys2Proof/Machine/Fetch.lean ====
section
/-! DEFINITION. What the block does in one step of an operation: classify the byte at the decoder's cursor, or go on with
the load (spec rules R22, R101, R182, R200). -/

namespace Sys2Proof.Machine

/-- A step of a decode (R101): the byte at the cursor is read and its instruction runs. -/
def decodeStep (s : State) : Host.Outcome State Fault Refusal :=
  let r := fetchOpcode s
  exec (decodeOpcode r.2.dec.pb r.1) r.2

/-- A step of a load (R200): a character for the window, the record in the window, the rest of a record, or
one of its buffered writes. -/
def loadStep (s : State) : Host.Outcome State Fault Refusal :=
  match s.ldr.phase with
  | .fill i => .next (recvChar (fillWindow i) s)
  | .scan =>
    match decodeWindow s.ldr.w with
    | .ok i => exec i s
    | .error _ => .next (recvChar slideWindow s)
  | .data _ _ => .next (runRecord s.inp s)
  | .check _ => .next (runRecord s.inp s)
  | .commit => .next (commitNext s)

/-- A step of the block; with `OPMODE = IDLE` it waits for the host (R260). -/
def blockStep (s : State) : Host.Outcome State Fault Refusal :=
  match s.opmode with
  | .idle => .next s
  | .decode => decodeStep s
  | .disasm => decodeStep s
  | .load => loadStep s

end Sys2Proof.Machine
end

