-- ==== Sys2Proof/Machine/HostMoves.lean ====
section
/-! DEFINITION. What the host does to the block: requests, memory writes between operations, character delivery, and
reset (spec rules R6, R33, R59, R182, R244, R260). -/

namespace Sys2Proof.Machine

/-- The moves the host can make now: a request or a memory write only between operations (R22, R59, R244), a delivery,
an end of stream or a reset at any time (R182, R260). `stay` is no move. -/
def hostReady (m : OpMode) : HostMove → Bool
  | .requestDecode _ | .requestDisasm _ _ | .requestLoad | .writeByte _ _ => m == .idle
  | .deliver _ | .endStream | .reset => true
  | .stay => false

/-- Hardware reset (R260 to R262): `OPMODE` is `IDLE` and `OUT` is empty; the configuration, every memory byte and the
host's stream are as they were; the working registers, which the spec leaves unspecified, take the values of
`State.reset` (log entry 4). -/
def hardwareReset (s : State) : State :=
  { State.reset with cfg := s.cfg, mem := s.mem, inp := s.inp, host := s.host, draws := s.draws }

/-- The host's memory write (R59): as `MemWrite`, an address outside [MIN, MAX] changes nothing (log entry 9). -/
def hostWrite (a : Addr) (v : Byte) (s : State) : State :=
  match memWrite none a v s with
  | .ok s1 => s1
  | .error _ => s

/-- One move of the host. -/
def hostMove (m : HostMove) (s : State) : State :=
  match m with
  | .requestDecode a => startDecode a { s with opmode := .decode }
  | .requestDisasm start stop => startDisasm start stop s
  | .requestLoad => startLoad s
  | .writeByte a v => hostWrite a v s
  | .deliver c => { s with inp := s.inp ++ [.char (normalizeChar c)] }
  | .endStream => { s with inp := s.inp ++ [.eos] }
  | .reset => hardwareReset s
  | .stay => s

/-- The host makes no move in the next step. -/
def hostStays (s : State) : State :=
  { s with host := match s.host with | [] => [] | m :: rest => .stay :: m :: rest }

end Sys2Proof.Machine
end

