-- ==== Sys2Proof/Machine/Step.lean ====
section
/-! DEFINITION. One step: a move of the host that is due, or else a step of the block (spec rules R6, R22, R260); and the
state that fetches a given table word. -/

namespace Sys2Proof.Machine

/-- One step of the machine: the host's next move when it can be made now; else a step of the block, beside which `stay`
is used up and a move that must wait stays. -/
def step (s : State) : Host.Outcome State Fault Refusal :=
  match s.host with
  | [] => blockStep s
  | .stay :: rest => blockStep { s with host := rest }
  | m :: rest => if hostReady s.opmode m then .next (hostMove m { s with host := rest }) else blockStep s

/-- The state whose very next step fetches and runs the instruction of a table word: for an opcode byte, a `decode` just
requested at MIN, with the byte there and zeros after it; for a record, a `load` just started whose window holds the
record's two characters and zeros (log entry 6). -/
def State.withFetchWord (s : State) (nbits w : Nat) : State :=
  if nbits = 16 then
    let s1 := startLoad (hostStays s)
    { s1 with ldr := { s1.ldr with
        w := ⟨BitVec.ofNat 8 (w / 256), BitVec.ofNat 8 w, 0, 0, 0, 0, 0, 0⟩, phase := .scan } }
  else
    let s1 := hostStays s
    startDecode s.cfg.min { s1 with
      opmode := .decode, mem := placeBytes [BitVec.ofNat 8 w, 0, 0, 0, 0, 0] s.cfg.min.toNat s.mem }

end Sys2Proof.Machine
end

