-- ==== Sys2Proof/Safety.lean ====
section
/-! DEFINITION. What counts as a safe step and a safe state, in the words the statements use. -/

namespace Sys2Proof.Machine

/-- The step goes on: it answers a next state. -/
def Runs (o : Host.Outcome State Fault Refusal) : Prop := ∃ t, o = .next t

/-- Memory lists only bytes of the valid window (R50: a byte outside it is not state of the block, R36). -/
def MemInWindow (s : State) : Prop := ∀ c ∈ s.mem, s.cfg.min.toNat ≤ c.1 ∧ c.1 ≤ s.cfg.max.toNat

/-- The largest `consumedBytes` of a decode: the escapes, the family byte and two operand bytes (R110). -/
def maxConsumed (c : Config) : Nat := c.escBudget + 3

/-- The write cursor in a data record: what is left to read and where the next byte goes agree (R58, R192, R193). -/
def CursorMatches (r : Ldr) : Prop :=
  match r.phase with
  | .data left _ => 1 ≤ left ∧ left ≤ r.n.toNat - 3 ∧ r.wc.toNat = r.la.toNat + (r.n.toNat - 3 - left)
  | _ => True

/-- A load in a data record: the record passed the load-window check and its writes start there (R189, R193, R199). -/
def InRecord (c : Config) (r : Ldr) : Prop :=
  match r.phase with
  | .data _ _ | .check _ | .commit => c.lfStart ≤ r.la ∧ r.la ≤ c.lfMax ∧ ∀ p ∈ r.lineBuf, c.lfStart ≤ p.1
  | _ => True

/-- The invariant of the machine: what every step keeps. -/
structure Inv (s : State) : Prop where
  /-- The configuration meets the boot requirements the block can check (R264). -/
  admissible : s.cfg.Admissible
  /-- A record that starts at the last address cannot wrap the write cursor (R58: at most 252 data bytes). -/
  noWrap : s.cfg.max.toNat + 252 < 65536
  /-- Memory is in canonical form. -/
  memCanonical : s.mem.wf = true
  /-- Memory lists only the valid window. -/
  memInWindow : MemInWindow s
  /-- `K` never exceeds `ESC_BUDGET` (R23). -/
  escapesInBudget : s.dec.k ≤ s.cfg.escBudget
  /-- The result record's length is in R110's range. -/
  resultLength : 1 ≤ s.dec.result.consumedBytes ∧ s.dec.result.consumedBytes ≤ maxConsumed s.cfg
  /-- In a driver run the cursor is in range, and the decode in progress started at it (R164). -/
  driverCursor : s.opmode = .disasm → s.drv.cur ≤ s.drv.stop.toNat ∧ s.dec.da = BitVec.ofNat 16 s.drv.cur
  /-- In a load the line counter counts from 1 (R181). -/
  lineFromOne : s.opmode = .load → 1 ≤ s.ldr.line
  /-- In a load the data cursor and the count agree. -/
  writeCursor : s.opmode = .load → CursorMatches s.ldr
  /-- In a load, a record under way passed the load-window check. -/
  inRecord : s.opmode = .load → InRecord s.cfg s.ldr
  /-- The stream holds no `'\r'` (R33). -/
  normalized : StreamItem.char 0x0D ∉ s.inp

end Sys2Proof.Machine
end

