-- ==== Sys2Proof/Certificates/Slice0/Obligations.lean ====
section
/-! DEFINITION. The statements for the provers, and the few words they are said in. A statement whose basis is the
model's own choice names the log entry in its docstring. -/

namespace Sys2Proof.Machine

/-! ### The words of the statements -/

/-- `b` is a byte that `MemRead(a, 1)` may return in `s`: the byte memory holds inside [MIN, MAX], any byte outside
(R51). -/
def MayRead (s : State) (a : Addr) (b : Byte) : Prop := inWindow s.cfg a = true → b = s.mem.read a.toNat

/-- The operand bytes of R76's table. -/
def rowLength (m : Mode) (is16 : Bool) : Nat :=
  match m with
  | .imm => if is16 then 2 else 1
  | .dir => 1
  | .idx => 1
  | .ext => 2

/-- A 16-bit immediate whose first byte read as 0x00: that byte is skipped (R107). -/
def skipsZero (m : Mode) (is16 : Bool) (z : Byte) : Bool := m == .imm && is16 && z == 0x00

/-- The operand text of R81: `z` is the byte the zero test read, `b1` and `b2` the bytes the render reads at the two
addresses after the family byte. -/
def rowText (m : Mode) (is16 : Bool) (pb z b1 b2 : Byte) : String :=
  match m with
  | .imm =>
    if is16 then (if z = 0x00 then "#$" ++ hex2 b2 else "#$" ++ hex2 b1 ++ hex2 b2) else "#$" ++ hex2 b1
  | .dir => "$" ++ hex2 b1
  | .idx => "$" ++ hex2 b1 ++ indexText pb
  | .ext => "$" ++ hex2 b1 ++ hex2 b2

/-- The state after a family byte ended a stand-alone decode: the decoder's registers, the result record, the return.
Every other field is as it was, memory and streams included; `n` counts the draws. -/
def afterRow (s : State) (fam : Family) (key : Byte) (m : Mode) (sfx : Suffix) (is16 : Bool) (mnemonic : String)
    (z b1 b2 : Byte) (n : Nat) : State :=
  let text := rowText m is16 s.dec.pb z b1 b2
  let d : DecodedInstruction := ⟨s.dec.da, s.dec.k + 1 + rowLength m is16, mnemonic, text, true⟩
  let skip := skipsZero m is16 z
  { s with
    dec := { s.dec with
      fb := key ||| modeBits m, fam := fam, sfx := sfx, is16 := is16 && !skip
      opn := if skip then 1 else rowLength m is16, extra := if skip then 1 else 0
      ot := text, result := d }
    ret := .decoded d, opmode := .idle, draws := n }

/-- What `exec i s` does for a row of the opcode table in a stand-alone decode, in every mode and wherever the operand
bytes lie: with bytes `z`, `b1`, `b2` that the reads may return it answers the state `afterRow`. -/
def RowDecodes (i : Instr) (s : State) (fam : Family) (key : Byte) (m : Mode) (sfx : Suffix) (is16 : Bool)
    (mnemonic : String) : Prop :=
  ∃ (z b1 b2 : Byte) (n : Nat),
    MayRead s (cursor s + 1) z ∧ MayRead s (cursor s + 1) b1 ∧ MayRead s (cursor s + 2) b2 ∧
    (inWindow s.cfg (cursor s + 1) = true → inWindow s.cfg (cursor s + 2) = true → n = s.draws) ∧
    exec i s = .next (afterRow s fam key m sfx is16 mnemonic z b1 b2 n)

/-- The four bytes of a key, in the order Immediate, Direct, Indexed, Extended, decode to the row's instruction. -/
def RowBytes (pb key : Byte) (mk : Mode → Instr) : Prop :=
  decodeOpcode pb key = mk .imm ∧ decodeOpcode pb (key + 0x10) = mk .dir ∧ decodeOpcode pb (key + 0x20) = mk .idx ∧
  decodeOpcode pb (key + 0x30) = mk .ext

/-- A stand-alone decode under the spec's `SuffixTable`. -/
def SpecDecode (s : State) : Prop := s.opmode = .decode ∧ s.cfg.suffixTable = specSuffixTable

/-- The state after a stand-alone decode ended as NULL (R103): only the result and the return are written. -/
def afterNull (s : State) : State :=
  let d : DecodedInstruction := ⟨s.dec.da, s.dec.k + 1, "NULL", "", false⟩
  { s with dec := { s.dec with result := d }, ret := .decoded d, opmode := .idle }

/-- The upper-case hex character of a value below 16 (R84). -/
def hexChar (n : Nat) : Byte := if n < 10 then BitVec.ofNat 8 (0x30 + n) else BitVec.ofNat 8 (0x37 + n)

/-- The first character of a byte's hex pair. -/
def hiChar (b : Byte) : Byte := hexChar (b.toNat / 16)

/-- The second character of a byte's hex pair. -/
def loChar (b : Byte) : Byte := hexChar (b.toNat % 16)

/-- Bytes as the stream carries them, one hex pair each. -/
def pairsOf : List Byte → List StreamItem
  | [] => []
  | b :: rest => .char (hiChar b) :: .char (loChar b) :: pairsOf rest

/-- The `S1` instruction whose header pairs are `n`, `ah`, `al`. -/
def recordOf (n ah al : Byte) : Instr := .s1 (hiChar n) (loChar n) (hiChar ah) (loChar ah) (hiChar al) (loChar al)

/-- The low byte of the sum of `len`, `addr_hi`, `addr_lo` and the data bytes (R87). -/
def recordSum (n ah al : Byte) (ds : List Byte) : Byte := ds.foldl (fun acc d => acc + d) (n + ah + al)

/-- Memory `m'` is `m` with the bytes `ds` stored from `a` on: each of them reads back at its address, and every other
address reads as before. -/
def Stored (m m' : Memory) (a : Nat) (ds : List Byte) : Prop :=
  (∀ (j : Nat) (h : j < ds.length), Memory.read m' (a + j) = ds[j]) ∧
  (∀ x, x < a ∨ a + ds.length ≤ x → Memory.read m' x = Memory.read m x)

/-- The load takes another character of a data record before anything else. -/
def MidRecord (s : State) : Prop :=
  s.opmode = .load ∧ ((∃ left hi, s.ldr.phase = .data left hi) ∨ (∃ hi, s.ldr.phase = .check hi))

/-- The load's next step starts a data record: its full window holds an `S1`. -/
def StartsRecord (s : State) : Prop :=
  s.opmode = .load ∧ s.ldr.phase = .scan ∧
    ∃ c2 c3 c4 c5 c6 c7, decodeWindow s.ldr.w = .ok (.s1 c2 c3 c4 c5 c6 c7)

/-- The load needs a character: it fills or slides its window, or is in a data record. -/
def NeedsChar (s : State) : Prop :=
  s.opmode = .load ∧ s.ldr.phase ≠ .commit ∧ (s.ldr.phase = .scan → decodeWindow s.ldr.w = .error .notARecord)

/-- The line buffer of a record (R199): its data bytes, each with its address, in order. -/
def bufferOf : Addr → List Byte → List (Addr × Byte)
  | _, [] => []
  | a, d :: rest => (a, d) :: bufferOf (a + 1) rest

/-- The loader's registers after the record `n`, `ah`, `al`, `ds` with the correct checksum `t` (R190 to R196), `written`
of its bytes stored. -/
def recordRegs (r : Ldr) (n ah al t : Byte) (ds : List Byte) (written : Nat) : Ldr :=
  { r with
    n := n, la := wordOf ah al, first := r.first.or (some (wordOf ah al)), acc := recordSum n ah al ds
    wc := wordOf ah al + BitVec.ofNat 16 ds.length, written := r.written + written, t := t, f := t }

/-- A load that accepted this record under `P_LINE_COMMIT = buffered` and has made the first `j` of its writes, with
memory `m`. -/
def committing (s : State) (n ah al t : Byte) (ds : List Byte) (rest : List StreamItem) (j : Nat) (m : Memory) : State :=
  { s with
    mem := m, inp := rest
    ldr := { recordRegs s.ldr n ah al t ds j with lineBuf := (bufferOf (wordOf ah al) ds).drop j, phase := .commit } }

/-- A load that has loaded this record whole, with memory `m`: `Progress`, the next line, a new window (R197). -/
def loaded (s : State) (n ah al t : Byte) (ds : List Byte) (rest : List StreamItem) (m : Memory) : State :=
  { s with
    mem := m, inp := rest, out := s.out ++ [.progress]
    ldr := { recordRegs s.ldr n ah al t ds ds.length with line := s.ldr.line + 1, lineBuf := [], phase := .fill 0 } }

/-- The load that stood in `s` has ended with the `BoundsError` of a data byte at MAX + 1: `ds` is stored and counted, the
rest of the stream is `rest`, and nothing of the configuration, the decoder, the driver and the host has changed. -/
def StoppedPastMax (s u : State) (a : Nat) (ds : List Byte) (rest : List StreamItem) : Prop :=
  u.opmode = .idle ∧ u.ret = .err .boundsError (.bounds (some s.ldr.line) (s.cfg.max + 1) s.cfg.min s.cfg.max) ∧
  u.out = s.out ++ [.report .boundsError (.bounds (some s.ldr.line) (s.cfg.max + 1) s.cfg.min s.cfg.max)] ∧
  Stored s.mem u.mem a ds ∧ u.ldr.written = s.ldr.written + ds.length ∧ u.inp = rest ∧
  u.cfg = s.cfg ∧ u.dec = s.dec ∧ u.drv = s.drv ∧ u.host = s.host ∧ u.draws = s.draws

end Sys2Proof.Machine

open Sys2Proof Sys2Proof.Machine

/-! ### Load family -/

/-- R120, R121: `ldaa` and `ldab`: bytes, operand text, length, flags, and the frame. -/
def Obligations.LoadAccumulatorRowsDecode : Prop :=
  ∀ (m : Mode) (pb : Byte) (s : State), SpecDecode s →
    RowBytes pb 0x86 .ldaa ∧ RowDecodes (.ldaa m) s .ld 0x86 m .aa false "ldaa" ∧
    RowBytes pb 0xC6 .ldab ∧ RowDecodes (.ldab m) s .ld 0xC6 m .ab false "ldab"

/-- R122, R123: `ldd` and `lds`, with the 16-bit immediate's zero skip. -/
def Obligations.LoadSixteenBitRowsDecode : Prop :=
  ∀ (m : Mode) (pb : Byte) (s : State), SpecDecode s →
    RowBytes pb 0xCC .ldd ∧ RowDecodes (.ldd m) s .ld 0xCC m .d true "ldd" ∧
    RowBytes pb 0x8E .lds ∧ RowDecodes (.lds m) s .ld 0x8E m .s true "lds"

/-- R124, R125: the preceding byte picks `ldx` or `ldy`, and `P_XY_IS16` is the mark. -/
def Obligations.LoadIndexRowsDecode : Prop :=
  ∀ (m : Mode) (s : State), SpecDecode s →
    ((s.dec.pb = 0x00 ∨ s.dec.pb = 0xCD) →
      RowBytes s.dec.pb 0xCE .ldx ∧ RowDecodes (.ldx m) s .ld 0xCE m .x s.cfg.xyIs16 "ldx") ∧
    (s.dec.pb = 0x18 → RowBytes s.dec.pb 0xCE .ldy ∧ RowDecodes (.ldy m) s .ld 0xCE m .y s.cfg.xyIs16 "ldy")

/-- R126: the bare load family, by its three keys after any preceding byte, and by key 0xCE after one that names no
register, where `P_XY_IS16` is the mark. -/
def Obligations.BareLoadRowsDecode : Prop :=
  ∀ (m : Mode) (pb : Byte) (s : State), SpecDecode s →
    RowBytes pb 0x84 .ld84 ∧ RowDecodes (.ld84 m) s .ld 0x84 m .bare false "ld" ∧
    RowBytes pb 0x8C .ld8C ∧ RowDecodes (.ld8C m) s .ld 0x8C m .bare false "ld" ∧
    RowBytes pb 0xC4 .ldC4 ∧ RowDecodes (.ldC4 m) s .ld 0xC4 m .bare false "ld" ∧
    (s.dec.pb ≠ 0x00 → s.dec.pb ≠ 0xCD → s.dec.pb ≠ 0x18 →
      RowBytes s.dec.pb 0xCE .ldCE ∧ RowDecodes (.ldCE m) s .ld 0xCE m .bare s.cfg.xyIs16 "ld")

/-! ### Store family -/

/-- R127, R128: `staa` and `stab`, the Immediate form included. -/
def Obligations.StoreAccumulatorRowsDecode : Prop :=
  ∀ (m : Mode) (pb : Byte) (s : State), SpecDecode s →
    RowBytes pb 0x87 .staa ∧ RowDecodes (.staa m) s .st 0x87 m .aa false "staa" ∧
    RowBytes pb 0xC7 .stab ∧ RowDecodes (.stab m) s .st 0xC7 m .ab false "stab"

/-- R129, R130: `std` in its three modes (the byte 0xCD is the escape, so there is no Immediate form), and `sts`. -/
def Obligations.StoreSixteenBitRowsDecode : Prop :=
  ∀ (m : Mode) (pb : Byte) (s : State), SpecDecode s →
    decodeOpcode pb 0xCD = .escCD ∧ decodeOpcode pb 0xDD = .std .dir ∧ decodeOpcode pb 0xED = .std .idx ∧
    decodeOpcode pb 0xFD = .std .ext ∧
    (m ≠ .imm → RowDecodes (.std m) s .st 0xCD m .d true "std") ∧
    RowBytes pb 0x8F .sts ∧ RowDecodes (.sts m) s .st 0x8F m .s true "sts"

/-- R131, R132: the preceding byte picks `stx` or `sty`. -/
def Obligations.StoreIndexRowsDecode : Prop :=
  ∀ (m : Mode) (s : State), SpecDecode s →
    ((s.dec.pb = 0x00 ∨ s.dec.pb = 0xCD) →
      RowBytes s.dec.pb 0xCF .stx ∧ RowDecodes (.stx m) s .st 0xCF m .x s.cfg.xyIs16 "stx") ∧
    (s.dec.pb = 0x18 → RowBytes s.dec.pb 0xCF .sty ∧ RowDecodes (.sty m) s .st 0xCF m .y s.cfg.xyIs16 "sty")

/-- R133: the bare store family, by its three keys after any preceding byte, and by key 0xCF after one that names no
register, where `P_XY_IS16` is the mark. -/
def Obligations.BareStoreRowsDecode : Prop :=
  ∀ (m : Mode) (pb : Byte) (s : State), SpecDecode s →
    RowBytes pb 0x85 .st85 ∧ RowDecodes (.st85 m) s .st 0x85 m .bare false "st" ∧
    RowBytes pb 0x8D .st8D ∧ RowDecodes (.st8D m) s .st 0x8D m .bare false "st" ∧
    RowBytes pb 0xC5 .stC5 ∧ RowDecodes (.stC5 m) s .st 0xC5 m .bare false "st" ∧
    (s.dec.pb ≠ 0x00 → s.dec.pb ≠ 0xCD → s.dec.pb ≠ 0x18 →
      RowBytes s.dec.pb 0xCF .stCF ∧ RowDecodes (.stCF m) s .st 0xCF m .bare s.cfg.xyIs16 "st")

/-! ### Subtract family -/

/-- R134, R135, R136: `suba`, `subb` and the 16-bit `subd`. -/
def Obligations.SubtractRowsDecode : Prop :=
  ∀ (m : Mode) (pb : Byte) (s : State), SpecDecode s →
    RowBytes pb 0x80 .suba ∧ RowDecodes (.suba m) s .sub 0x80 m .a false "suba" ∧
    RowBytes pb 0xC0 .subb ∧ RowDecodes (.subb m) s .sub 0xC0 m .b false "subb" ∧
    RowBytes pb 0x83 .subd ∧ RowDecodes (.subd m) s .sub 0x83 m .d true "subd"

/-- R137: the six keys of the bare subtract family. -/
def Obligations.BareSubtractRowsDecode : Prop :=
  ∀ (m : Mode) (pb : Byte) (s : State), SpecDecode s →
    RowBytes pb 0x82 .sub82 ∧ RowDecodes (.sub82 m) s .sub 0x82 m .bare false "sub" ∧
    RowBytes pb 0x88 .sub88 ∧ RowDecodes (.sub88 m) s .sub 0x88 m .bare false "sub" ∧
    RowBytes pb 0x8A .sub8A ∧ RowDecodes (.sub8A m) s .sub 0x8A m .bare false "sub" ∧
    RowBytes pb 0xC2 .subC2 ∧ RowDecodes (.subC2 m) s .sub 0xC2 m .bare false "sub" ∧
    RowBytes pb 0xC8 .subC8 ∧ RowDecodes (.subC8 m) s .sub 0xC8 m .bare false "sub" ∧
    RowBytes pb 0xCA .subCA ∧ RowDecodes (.subCA m) s .sub 0xCA m .bare false "sub"

/-! ### Add family -/

/-- R138, R139, R141, R142: `adda`, `addb`, `adca`, `adcb`. -/
def Obligations.AddEightBitRowsDecode : Prop :=
  ∀ (m : Mode) (pb : Byte) (s : State), SpecDecode s →
    RowBytes pb 0x8B .adda ∧ RowDecodes (.adda m) s .ad 0x8B m .da false "adda" ∧
    RowBytes pb 0xCB .addb ∧ RowDecodes (.addb m) s .ad 0xCB m .db false "addb" ∧
    RowBytes pb 0x89 .adca ∧ RowDecodes (.adca m) s .ad 0x89 m .ca false "adca" ∧
    RowBytes pb 0xC9 .adcb ∧ RowDecodes (.adcb m) s .ad 0xC9 m .cb false "adcb"

/-- R140, R143: the 16-bit `addd` and the two keys of the bare add family. -/
def Obligations.AddSixteenBitAndBareRowsDecode : Prop :=
  ∀ (m : Mode) (pb : Byte) (s : State), SpecDecode s →
    RowBytes pb 0xC3 .addd ∧ RowDecodes (.addd m) s .ad 0xC3 m .dd true "addd" ∧
    RowBytes pb 0x81 .ad81 ∧ RowDecodes (.ad81 m) s .ad 0x81 m .bare false "ad" ∧
    RowBytes pb 0xC1 .adC1 ∧ RowDecodes (.adC1 m) s .ad 0xC1 m .bare false "ad"

/-! ### Escapes and NULL -/

/-- R102, R144: an escape byte within the budget is remembered and skipped, and writes nothing else, in a stand-alone
decode and in a driver run alike. -/
def Obligations.EscapeIsRememberedAndSkipped : Prop :=
  ∀ (b : Byte) (s : State), s.dec.k < s.cfg.escBudget →
    (b &&& 0x85 = 0x00 → exec (.esc b) s = .next { s with dec := { s.dec with pb := b, k := s.dec.k + 1 } }) ∧
    exec .escCD s = .next { s with dec := { s.dec with pb := 0xCD, k := s.dec.k + 1 } }

/-- R103, R144: an escape byte past the budget ends a stand-alone decode as NULL with `K + 1` bytes. -/
def Obligations.EscapePastBudgetIsNull : Prop :=
  ∀ (b : Byte) (s : State), s.opmode = .decode → s.cfg.escBudget ≤ s.dec.k →
    (b &&& 0x85 = 0x00 → exec (.esc b) s = .next (afterNull s)) ∧ exec .escCD s = .next (afterNull s)

/-- R103, R145: a no-match byte ends a stand-alone decode as NULL with `K + 1` bytes; `FB`, `FAM` and `SFX` are not
written. -/
def Obligations.NoMatchByteIsNull : Prop :=
  ∀ (b : Byte) (s : State), s.opmode = .decode →
    (b &&& 0x85 = 0x01 → (∀ pb, decodeOpcode pb b = .null01 b) ∧ exec (.null01 b) s = .next (afterNull s)) ∧
    (b &&& 0x85 = 0x04 → (∀ pb, decodeOpcode pb b = .null04 b) ∧ exec (.null04 b) s = .next (afterNull s)) ∧
    (b &&& 0x85 = 0x05 → (∀ pb, decodeOpcode pb b = .null05 b) ∧ exec (.null05 b) s = .next (afterNull s))

/-- The model's own stop (log entry 8): a meaning stops exactly on a term no byte encodes, and then with the fault
`notEncodable`; on every other instruction, in every state, it answers a next state. -/
def Obligations.ExecRunsEveryEncodableInstruction : Prop :=
  ∀ (i : Instr) (s : State),
    (i.wf = true → Runs (exec i s)) ∧ (i.wf = false → exec i s = .fault .notEncodable)

/-! ### The decode as a whole -/

/-- R110: the bounds on `consumedBytes`, for whatever bytes the reads return. -/
def Obligations.ConsumedBytesWithinBounds : Prop :=
  ∀ (i : Instr) (s t : State), i.isRecord = false → s.opmode = .decode → s.dec.k ≤ s.cfg.escBudget →
    exec i s = .next t → t.opmode = .idle →
    1 ≤ t.dec.result.consumedBytes ∧ t.dec.result.consumedBytes ≤ s.cfg.escBudget + 3 ∧
    (t.dec.result.valid = true →
      t.dec.result.consumedBytes = s.dec.k + 2 ∨ t.dec.result.consumedBytes = s.dec.k + 3) ∧
    (t.dec.result.valid = false → t.dec.result.consumedBytes = s.dec.k + 1)

/-- R111: the end of a decode reads no byte past the last one it reports consumed: memory that agrees on those bytes
gives the same decode. -/
def Obligations.DecodeReadsOnlyConsumedBytes : Prop :=
  ∀ (i : Instr) (s t : State) (m' : Memory), i.isRecord = false → s.opmode = .decode →
    exec i s = .next t → t.opmode = .idle →
    (∀ j, 1 ≤ j → s.dec.k + 1 + j ≤ t.dec.result.consumedBytes →
      Memory.read m' (cursor s + BitVec.ofNat 16 j).toNat = Memory.read s.mem (cursor s + BitVec.ofNat 16 j).toNat) →
    exec i { s with mem := m' } = .next { t with mem := m' }

/-- R22, R100, R110: a stand-alone decode that the host leaves alone runs to completion, in at most one step for each
escape of the budget and one more, whatever the bytes are, and writes no memory, no stream and no driver or loader
register. -/
def Obligations.DecodeRunsToCompletion : Prop :=
  ∀ s : State, s.opmode = .decode → s.host = [] → s.dec.k ≤ s.cfg.escBudget →
    ∃ (n : Nat) (t : State), n ≤ s.cfg.escBudget + 1 - s.dec.k ∧ Host.Core.run core n s = .next t ∧
      t.opmode = .idle ∧ t.ret = .decoded t.dec.result ∧ t.dec.result.address = s.dec.da ∧
      1 ≤ t.dec.result.consumedBytes ∧ t.dec.result.consumedBytes ≤ s.cfg.escBudget + 3 ∧
      t.mem = s.mem ∧ t.inp = s.inp ∧ t.out = s.out ∧ t.drv = s.drv ∧ t.ldr = s.ldr ∧ t.cfg = s.cfg

/-! ### Encoding -/

/-- Decode and encode agree on every opcode instruction that is well-formed after its preceding byte. -/
def Obligations.OpcodeEncodingRoundTrips : Prop :=
  ∀ (pb : Byte) (i : Instr) (rest : List Byte), i.isRecord = false → i.wfAt pb = true →
    decode (.opcode pb) (encode i ++ rest) = .ok (i, rest)

/-- Decode and encode agree on every record instruction. -/
def Obligations.RecordEncodingRoundTrips : Prop :=
  ∀ (i : Instr) (rest : List Byte), i.isRecord = true → decode .record (encode i ++ rest) = .ok (i, rest)

/-- R80: the classification is total. Every byte decodes, after every preceding byte, to an instruction that is
well-formed there and that encodes to that byte. -/
def Obligations.EveryByteHasOneReading : Prop :=
  ∀ (pb b : Byte), (decodeOpcode pb b).wfAt pb = true ∧ encode (decodeOpcode pb b) = [b] ∧
    (decodeOpcode pb b).isRecord = false

/-- R85, R186: the window holds a record exactly when it begins with `'S'` and `'1'` or `'9'`, and the record's
instruction is made of the window's characters; any other window is rejected by name. -/
def Obligations.WindowHoldsRecordOrIsRejected : Prop :=
  ∀ w : Window,
    (w.c0 = 0x53 → w.c1 = 0x31 → decodeWindow w = .ok (.s1 w.c2 w.c3 w.c4 w.c5 w.c6 w.c7)) ∧
    (w.c0 = 0x53 → w.c1 = 0x39 → decodeWindow w = .ok (.s9 w.c2 w.c3 w.c4 w.c5 w.c6 w.c7)) ∧
    ((w.c0 ≠ 0x53 ∨ (w.c1 ≠ 0x31 ∧ w.c1 ≠ 0x39)) → decodeWindow w = .error .notARecord)

/-- R72, R73: the 33 escape bytes and the 96 no-match bytes, written out; every other byte is a family byte. -/
def Obligations.EscapeAndNoMatchBytesAreListed : Prop :=
  let escapes : List Byte :=
    [ 0x00, 0x02, 0x08, 0x0A, 0x10, 0x12, 0x18, 0x1A, 0x20, 0x22, 0x28, 0x2A, 0x30, 0x32, 0x38, 0x3A,
      0x40, 0x42, 0x48, 0x4A, 0x50, 0x52, 0x58, 0x5A, 0x60, 0x62, 0x68, 0x6A, 0x70, 0x72, 0x78, 0x7A, 0xCD ]
  let noMatch : List Byte :=
    [ 0x01, 0x03, 0x04, 0x05, 0x06, 0x07, 0x09, 0x0B, 0x0C, 0x0D, 0x0E, 0x0F, 0x11, 0x13, 0x14, 0x15, 0x16, 0x17,
      0x19, 0x1B, 0x1C, 0x1D, 0x1E, 0x1F ] ++
    [ 0x21, 0x23, 0x24, 0x25, 0x26, 0x27, 0x29, 0x2B, 0x2C, 0x2D, 0x2E, 0x2F, 0x31, 0x33, 0x34, 0x35, 0x36, 0x37,
      0x39, 0x3B, 0x3C, 0x3D, 0x3E, 0x3F ] ++
    [ 0x41, 0x43, 0x44, 0x45, 0x46, 0x47, 0x49, 0x4B, 0x4C, 0x4D, 0x4E, 0x4F, 0x51, 0x53, 0x54, 0x55, 0x56, 0x57,
      0x59, 0x5B, 0x5C, 0x5D, 0x5E, 0x5F ] ++
    [ 0x61, 0x63, 0x64, 0x65, 0x66, 0x67, 0x69, 0x6B, 0x6C, 0x6D, 0x6E, 0x6F, 0x71, 0x73, 0x74, 0x75, 0x76, 0x77,
      0x79, 0x7B, 0x7C, 0x7D, 0x7E, 0x7F ]
  escapes.length = 33 ∧ noMatch.length = 96 ∧
    ∀ b : Byte, (classify b = .escape ↔ b ∈ escapes) ∧ (classify b = .noMatch ↔ b ∈ noMatch) ∧
      ((∃ f, classify b = .family f) ↔ (0x80 ≤ b ∧ b ≠ 0xCD))

/-- R70: the suffix key fixes the family field, and a byte is its suffix key and its mode field. -/
def Obligations.SuffixKeyAndModeMakeTheByte : Prop :=
  ∀ b : Byte, b &&& 0x85 = suffixKey b &&& 0x85 ∧ b = familyByte (suffixKey b) (modeField b)

/-- A few words written out from the spec's encodings decode to the instructions they stand for. The clauses of
`decodeTableWord` are the model's choice (log entry 7): no escape before the byte, a record's first character in bits
15..8, its window's other six characters 0. -/
def Obligations.WrittenWordsDecodeRight : Prop :=
  decodeTableWord 8 0x86 = some (.ldaa .imm) ∧ decodeTableWord 8 0xB7 = some (.staa .ext) ∧
  decodeTableWord 8 0x93 = some (.subd .dir) ∧ decodeTableWord 8 0xE3 = some (.addd .idx) ∧
  decodeTableWord 8 0x18 = some (.esc 0x18) ∧ decodeTableWord 8 0xCD = some .escCD ∧
  decodeTableWord 8 0x39 = some (.null01 0x39) ∧ decodeTableWord 16 0x5331 = some (.s1 0 0 0 0 0 0) ∧
  decodeTableWord 16 0x5339 = some (.s9 0 0 0 0 0 0) ∧ decodeTableWord 16 0x5330 = none ∧
  decode (.opcode 0x18) [0xEE, 0x03] = .ok (.ldy .idx, [0x03])

/-! ### The suffix and operand tables -/

/-- R74, R104, R105, R108: `SuffixTable` row by row, the empty suffix of every other key, the register letters and the
index texts, under the spec's table. The rows are R74's, which the spec decided from general knowledge (D7; PRESUMED, log
entry 15). -/
def Obligations.SuffixTableRowsHold : Prop :=
  ∀ (c : Config) (pb : Byte), c.suffixTable = specSuffixTable →
    (∀ r ∈ ([ (0xC3, .dd, true), (0xCB, .db, false), (0x89, .ca, false), (0xC9, .cb, false), (0x8B, .da, false),
        (0xC0, .b, false), (0x80, .a, false), (0x86, .aa, false), (0x87, .aa, false), (0xC6, .ab, false),
        (0xC7, .ab, false), (0x83, .d, true), (0xCC, .d, true), (0xCD, .d, true), (0x8E, .s, true), (0x8F, .s, true),
        (0x84, .bare, false), (0x8C, .bare, false), (0xC4, .bare, false), (0x85, .bare, false), (0x8D, .bare, false),
        (0xC5, .bare, false), (0x82, .bare, false), (0x88, .bare, false), (0x8A, .bare, false), (0xC2, .bare, false),
        (0xC8, .bare, false), (0xCA, .bare, false), (0x81, .bare, false), (0xC1, .bare, false) ]
        : List (Byte × Suffix × Bool)),
      suffixOf c r.1 pb = r.2.1 ∧ is16Mark c r.1 = r.2.2) ∧
    (∀ v : Byte, v = 0xCE ∨ v = 0xCF → suffixOf c v pb = regLetter pb ∧ is16Mark c v = c.xyIs16) ∧
    regLetter 0x00 = .x ∧ regLetter 0xCD = .x ∧ regLetter 0x18 = .y ∧
    (pb ≠ 0x00 → pb ≠ 0xCD → pb ≠ 0x18 → regLetter pb = .bare) ∧
    indexText 0x00 = ",X" ∧ indexText 0x1A = ",X" ∧ indexText 0x18 = ",Y" ∧ indexText 0xCD = ",Y" ∧
    (pb ≠ 0x00 → pb ≠ 0x1A → pb ≠ 0x18 → pb ≠ 0xCD → indexText pb = "")

/-! ### Steps -/

/-- A STEP RUNS THE DECODED INSTRUCTION, for opcode bytes: in a decode or a driver run, with no move of the host due, the
step is `exec` of the instruction that the byte at the cursor decodes to; where the host stays, that move is used up;
outside the valid window the byte is a draw, and the step counts it. -/
def Obligations.StepRunsTheOpcodeAtTheCursor : Prop :=
  ∀ (s : State) (i : Instr), s.opmode = .decode ∨ s.opmode = .disasm →
    (inWindow s.cfg (cursor s) = true →
      decode (.opcode s.dec.pb) [Memory.read s.mem (cursor s).toNat] = .ok (i, []) →
      (s.host = [] → step s = exec i s) ∧
      (∀ rest, s.host = .stay :: rest → step s = exec i { s with host := rest })) ∧
    (inWindow s.cfg (cursor s) = false →
      decode (.opcode s.dec.pb) [Config.outsideRead s.draws (cursor s)] = .ok (i, []) →
      (s.host = [] → step s = exec i { s with draws := s.draws + 1 }) ∧
      (∀ rest, s.host = .stay :: rest → step s = exec i { s with host := rest, draws := s.draws + 1 }))

/-- A STEP RUNS THE DECODED INSTRUCTION, for records: in a load whose full window holds a record, with no move of the
host due, the step is `exec` of that record's instruction. -/
def Obligations.StepRunsTheRecordInTheWindow : Prop :=
  ∀ (s : State) (i : Instr), s.opmode = .load → s.ldr.phase = .scan → decodeWindow s.ldr.w = .ok i →
    (s.host = [] → step s = exec i s) ∧
    (∀ rest, s.host = .stay :: rest → step s = exec i { s with host := rest })

/-- The block has no trap: from every state a step goes on to a next state (R80, R240; errors are results). That a block
which waits takes a step, where R182 gives it none, is the model's choice (log entry 10). -/
def Obligations.EveryStepGoesOn : Prop := ∀ s : State, Runs (step s)

/-- The invariant holds right after reset (with the configuration of log entry 5). -/
def Obligations.InvariantHoldsAtReset : Prop := Inv State.reset

/-- Every step keeps the invariant. -/
def Obligations.EveryStepKeepsInvariant : Prop := ∀ s t : State, Inv s → step s = .next t → Inv t

/-- R21: no step changes the configuration. -/
def Obligations.ConfigurationNeverChanges : Prop := ∀ s t : State, step s = .next t → t.cfg = s.cfg

/-- R59, R100, R160: memory changes only in a load or by a host write between operations, and the stream loses
characters only in a load. -/
def Obligations.OnlyLoadAndHostWriteMemory : Prop :=
  ∀ s t : State, step s = .next t →
    (t.mem = s.mem ∨ s.opmode = .load ∨ (s.opmode = .idle ∧ ∃ a v rest, s.host = .writeByte a v :: rest)) ∧
    (s.opmode = .load ∨ ∃ l, t.inp = s.inp ++ l)

/-- R22: only a request moves `OPMODE` out of `IDLE`, and only the end of the operation, or a reset, moves it back. -/
def Obligations.OperationModeChangesOnlyAtEnds : Prop :=
  ∀ s t : State, step s = .next t →
    (s.opmode = .idle → t.opmode ≠ .idle →
      ∃ m rest, s.host = m :: rest ∧
        ((∃ a, m = .requestDecode a ∧ t.opmode = .decode) ∨ (∃ a b, m = .requestDisasm a b ∧ t.opmode = .disasm) ∨
          (m = .requestLoad ∧ t.opmode = .load))) ∧
    (s.opmode ≠ .idle → t.opmode = s.opmode ∨ t.opmode = .idle) ∧
    (s.opmode ≠ .idle → t.opmode = .idle →
      (∃ rest, s.host = .reset :: rest) ∨ (s.opmode = .decode ∧ t.ret = .decoded t.dec.result) ∨
      (s.opmode = .disasm ∧ t.ret = .disasmOk) ∨
      (s.opmode = .load ∧ ((∃ f n, t.ret = .loadOk f n) ∨ ∃ k e, t.ret = .err k e)))

/-- R245: an operation that ends with `Err` in a step has emitted exactly one event in it, the `Report` of that error. -/
def Obligations.AnErrorIsReportedOnce : Prop :=
  ∀ (s t : State) (k : ErrorKind) (e : Error), step s = .next t → s.opmode ≠ .idle → t.opmode = .idle →
    t.ret = .err k e → k = e.kind ∧ t.out = s.out ++ [.report k e]

/-- R230, R239, R240: what an error does, whole: one `Report`, the return, `IDLE`, and nothing else; and the codes. -/
def Obligations.RaiseReportsAndStops : Prop :=
  (∀ (e : Error) (s : State),
    raise e s = { s with out := s.out ++ [.report e.kind e], ret := .err e.kind e, opmode := .idle }) ∧
  ErrorKind.decodeFailure.code = 1 ∧ ErrorKind.boundsError.code = 2 ∧ ErrorKind.formatError.code = 3 ∧
  ErrorKind.checksumError.code = 4 ∧ ErrorKind.streamEndError.code = 5 ∧ ErrorKind.rangeError.code = 6

/-! ### The host -/

/-- R260, R261, R262: a reset, at any time, puts `OPMODE` at `IDLE` and empties `OUT`; memory, the configuration and the
host's stream are as they were; no error is returned. That delivered characters the block has not taken stay in the stream
is the model's reading of R33 and R36 (DEDUCED, log entry 21). -/
def Obligations.ResetKeepsMemoryAndConfiguration : Prop :=
  ∀ (s : State) (rest : List HostMove), s.host = .reset :: rest →
    ∃ t, step s = .next t ∧ t.opmode = .idle ∧ t.out = [] ∧ t.mem = s.mem ∧ t.cfg = s.cfg ∧ t.inp = s.inp ∧
      t.host = rest ∧ (∀ k e, t.ret ≠ .err k e)

/-- R181, R244, R263: a request from `IDLE` starts its operation with its own initialisation, and writes nothing else. -/
def Obligations.RequestsInitialiseTheirRegisters : Prop :=
  ∀ (s : State) (a : Addr) (rest : List HostMove), s.opmode = .idle →
    (s.host = .requestDecode a :: rest →
      step s = .next { s with
        host := rest, opmode := .decode, dec := { s.dec with da := a, k := 0, pb := 0x00, is16 := false } }) ∧
    (s.host = .requestLoad :: rest →
      step s = .next { s with
        host := rest, opmode := .load
        ldr := { s.ldr with line := 1, written := 0, first := none, phase := .fill 0 } })

/-- R182, R260, R269: with nothing to do the block waits and its state stays: idle with no move of the host, or a load
that needs a character while the host has none to give, a pending request or memory write notwithstanding. That waiting
is a step is the model's choice (log entry 10). -/
def Obligations.TheBlockWaitsForTheHost : Prop :=
  ∀ s : State,
    (s.opmode = .idle → s.host = [] → step s = .next s) ∧
    (NeedsChar s → s.inp = [] →
      (s.host = [] ∨ (∃ a rest, s.host = .requestDecode a :: rest) ∨ (∃ a b rest, s.host = .requestDisasm a b :: rest) ∨
        (∃ rest, s.host = .requestLoad :: rest) ∨ ∃ a v rest, s.host = .writeByte a v :: rest) →
      step s = .next s)

/-- R33, R59, R88: the host's write between operations, and its deliveries, with `'\r'` normalised to `'\n'`. That the
normalising happens at delivery is DEDUCED (log entry 12), and that the end-of-stream signal is one item of the stream is
the model's choice (log entry 11). -/
def Obligations.HostWritesAndDelivers : Prop :=
  ∀ (s : State) (a : Addr) (v c : Byte) (rest : List HostMove),
    (s.opmode = .idle → s.host = .writeByte a v :: rest → inWindow s.cfg a = true →
      ∃ t, step s = .next t ∧ t = { s with host := rest, mem := t.mem } ∧ Stored s.mem t.mem a.toNat [v]) ∧
    (s.host = .deliver c :: rest → c ≠ 0x0D → step s = .next { s with host := rest, inp := s.inp ++ [.char c] }) ∧
    (s.host = .deliver 0x0D :: rest → step s = .next { s with host := rest, inp := s.inp ++ [.char 0x0A] }) ∧
    (s.host = .endStream :: rest → step s = .next { s with host := rest, inp := s.inp ++ [.eos] })

/-! ### Memory -/

/-- R51, R52, R61: a write inside the valid window succeeds, its byte is what the next read of that address returns,
every other address reads as before, and canonical memory stays canonical; a write outside fails with the address and the
window, and changes nothing; a read inside returns the byte and changes nothing; a read outside changes nothing but the
count of draws (the draw's form is log entry 1). -/
def Obligations.MemoryReadsAndWrites : Prop :=
  ∀ (s : State) (a : Addr) (v : Byte) (line : Option Nat),
    (inWindow s.cfg a = true →
      memRead a s = (s.mem.read a.toNat, s) ∧
      ∃ t, memWrite line a v s = .ok t ∧ t = { s with mem := t.mem } ∧ (s.mem.wf = true → t.mem.wf = true) ∧
        Stored s.mem t.mem a.toNat [v] ∧ memRead a t = (v, t)) ∧
    (inWindow s.cfg a = false →
      memWrite line a v s = .error (.bounds line a s.cfg.min s.cfg.max) ∧
      memRead a s = (Config.outsideRead s.draws a, { s with draws := s.draws + 1 }))

/-! ### The driver -/

/-- R161: an inverted range is rejected before anything else: one `Report`, no `Org`, no decode. That START and END are
written by then, and CUR is not, is the model's reading (DEDUCED, log entry 22). -/
def Obligations.DisasmRejectsInvertedRange : Prop :=
  ∀ (s : State) (start stop : Addr) (rest : List HostMove), s.opmode = .idle →
    s.host = .requestDisasm start stop :: rest → start > stop →
    step s = .next { s with
      host := rest, drv := { s.drv with start := start, stop := stop }
      out := s.out ++ [.report .rangeError (.range start stop)], ret := .err .rangeError (.range start stop) }

/-- R162: with the window check on, the first of START, END outside the valid window is reported, before any decode. That
START and END are written by then, and CUR is not, is the model's choice (DEDUCED, log entry 22). -/
def Obligations.DisasmRejectsAddressOutsideWindow : Prop :=
  ∀ (s : State) (start stop a : Addr) (rest : List HostMove), s.opmode = .idle →
    s.host = .requestDisasm start stop :: rest → start ≤ stop → s.cfg.driverWindowCheck = true →
    (inWindow s.cfg start = false ∧ a = start ∨
      inWindow s.cfg start = true ∧ inWindow s.cfg stop = false ∧ a = stop) →
    step s = .next { s with
      host := rest, drv := { s.drv with start := start, stop := stop }
      out := s.out ++ [.report .boundsError (.bounds none a s.cfg.min s.cfg.max)]
      ret := .err .boundsError (.bounds none a s.cfg.min s.cfg.max) }

/-- R162, R163, R164: an accepted `disasm` emits `Org(START)`, sets `CUR` to START and begins the first decode there. -/
def Obligations.DisasmOpensWithOrg : Prop :=
  ∀ (s : State) (start stop : Addr) (rest : List HostMove), s.opmode = .idle →
    s.host = .requestDisasm start stop :: rest → start ≤ stop →
    (s.cfg.driverWindowCheck = false ∨ inWindow s.cfg start = true ∧ inWindow s.cfg stop = true) →
    step s = .next { s with
      host := rest, opmode := .disasm, drv := ⟨start, stop, start.toNat⟩, out := s.out ++ [.org start]
      dec := { s.dec with da := start, k := 0, pb := 0x00, is16 := false } }

/-- R164, R165, R167, R168: when a decode of a driver run ends, the same decode result as stand-alone is rendered with
its raw bytes, `CUR` advances by exactly `consumedBytes`, valid or not, and the driver starts the next decode at `CUR`
or, past END, emits `End(END)` and returns `Ok`. Memory, the configuration, the stream and the loader are as before. -/
def Obligations.DriverAdvancesByConsumedBytes : Prop :=
  ∀ (i : Instr) (s u : State), i.isRecord = false → s.opmode = .disasm →
    exec i { s with opmode := .decode } = .next u → u.opmode = .idle →
    ∃ (raw : List Byte) (n : Nat),
      raw.length = u.dec.result.consumedBytes ∧
      (∀ (j : Nat) (h : j < raw.length), MayRead s (BitVec.ofNat 16 (s.drv.cur + j)) raw[j]) ∧
      exec i s = .next (
        if s.drv.cur + u.dec.result.consumedBytes ≤ s.drv.stop.toNat then
          { s with
            drv := { s.drv with cur := s.drv.cur + u.dec.result.consumedBytes }
            out := s.out ++ [.instr u.dec.result raw], draws := n
            dec := { u.dec with
              da := BitVec.ofNat 16 (s.drv.cur + u.dec.result.consumedBytes), k := 0, pb := 0x00, is16 := false } }
        else
          { s with
            drv := { s.drv with cur := s.drv.cur + u.dec.result.consumedBytes }
            out := s.out ++ [.instr u.dec.result raw, .endMark s.drv.stop], draws := n
            dec := u.dec, ret := .disasmOk, opmode := .idle })

/-- R166, R270: a driver run that the host leaves alone ends, with `End(END)` and `Ok`, after at most END - CUR + 1
decodes, each of at most one step for each escape of the budget and one more; it writes no memory and reads no stream. -/
def Obligations.DisasmTerminates : Prop :=
  ∀ s : State, Inv s → s.opmode = .disasm → s.host = [] →
    ∃ (n : Nat) (t : State), n ≤ (s.drv.stop.toNat + 1 - s.drv.cur) * (s.cfg.escBudget + 1) ∧
      Host.Core.run core n s = .next t ∧ t.opmode = .idle ∧ t.ret = .disasmOk ∧
      (∃ events, t.out = s.out ++ events ++ [.endMark s.drv.stop] ∧
        events.length ≤ s.drv.stop.toNat + 1 - s.drv.cur ∧ ∀ e ∈ events, ∃ d raw, e = .instr d raw) ∧
      t.mem = s.mem ∧ t.inp = s.inp ∧ t.ldr = s.ldr

/-! ### The record loader -/

/-- R84, R183, R184: the hex digits and their values, the failure of every other character, and a pair's value. -/
def Obligations.HexDigitsAndPairs : Prop :=
  (∀ c : Byte,
    (0x30 ≤ c → c ≤ 0x39 → hexVal c = some (c - 0x30)) ∧ (0x41 ≤ c → c ≤ 0x46 → hexVal c = some (c - 0x41 + 10)) ∧
    (¬ (0x30 ≤ c ∧ c ≤ 0x39) → ¬ (0x41 ≤ c ∧ c ≤ 0x46) → hexVal c = none)) ∧
  (∀ (c1 c2 h l : Byte), hexVal c1 = some h → hexVal c2 = some l → hexPair c1 c2 = some (16 * h + l)) ∧
  (∀ c1 c2 : Byte, hexVal c1 = none ∨ hexVal c2 = none → hexPair c1 c2 = none)

/-- R185: with 8 characters at hand a load fills its window with them, in order, in 8 steps, and does nothing else. -/
def Obligations.WindowIsFilledInOrder : Prop :=
  ∀ (s : State) (c0 c1 c2 c3 c4 c5 c6 c7 : Byte) (rest : List StreamItem), s.opmode = .load → s.host = [] →
    s.ldr.phase = .fill 0 →
    s.inp = [.char c0, .char c1, .char c2, .char c3, .char c4, .char c5, .char c6, .char c7] ++ rest →
    Host.Core.run core 8 s = .next { s with
      inp := rest, ldr := { s.ldr with w := ⟨c0, c1, c2, c3, c4, c5, c6, c7⟩, phase := .scan } }

/-- R186: a window that holds no record slides by one character; the line counter does not move. -/
def Obligations.ScanSlidesByOneCharacter : Prop :=
  ∀ (s : State) (c : Byte) (rest : List StreamItem), s.opmode = .load → s.host = [] → s.ldr.phase = .scan →
    decodeWindow s.ldr.w = .error .notARecord → s.inp = .char c :: rest →
    step s = .next { s with
      inp := rest
      ldr := { s.ldr with
        w := ⟨s.ldr.w.c1, s.ldr.w.c2, s.ldr.w.c3, s.ldr.w.c4, s.ldr.w.c5, s.ldr.w.c6, s.ldr.w.c7, c⟩ } }

/-- R182, R235: end of stream wherever a load takes a character ends it with `StreamEndError` and the line number. That
the signal is used up by the character it stands for is the model's choice (log entry 11). -/
def Obligations.EndOfStreamEndsTheLoad : Prop :=
  ∀ (s : State) (rest : List StreamItem), NeedsChar s → s.host = [] → s.inp = .eos :: rest →
    step s = .next { s with
      inp := rest, opmode := .idle, out := s.out ++ [.report .streamEndError (.streamEnd s.ldr.line)]
      ret := .err .streamEndError (.streamEnd s.ldr.line) }

/-- R187, R211: `S9` emits the summary and returns it; its other characters are not looked at, and nothing else
changes. -/
def Obligations.TerminatorEndsTheLoad : Prop :=
  ∀ (s : State) (c2 c3 c4 c5 c6 c7 : Byte),
    exec (.s9 c2 c3 c4 c5 c6 c7) s = .next { s with
      out := s.out ++ [.summary s.ldr.first s.ldr.written], ret := .loadOk s.ldr.first s.ldr.written, opmode := .idle }

/-- R188: a header pair that is not hex ends the load with `FormatError` and the line number, and writes nothing. That `N`
and `LA` keep what they held is the model's reading, and R188 does not say it (DEDUCED, log entry 14). -/
def Obligations.BadHeaderIsFormatError : Prop :=
  ∀ (s : State) (c2 c3 c4 c5 c6 c7 : Byte),
    (hexPair c2 c3 = none ∨ hexPair c4 c5 = none ∨ hexPair c6 c7 = none) →
    exec (.s1 c2 c3 c4 c5 c6 c7) s = .next { s with
      out := s.out ++ [.report .formatError (.format s.ldr.line)], ret := .err .formatError (.format s.ldr.line)
      opmode := .idle }

/-- R184, R193, R195, R233: in a record, a data or checksum pair that is not hex takes both of its characters and ends the
load with `FormatError` and the line number; memory and the accumulator keep what they held. -/
def Obligations.BadPairInRecordIsFormatError : Prop :=
  ∀ (s : State) (c1 c2 : Byte) (rest : List StreamItem), s.opmode = .load → s.host = [] → hexPair c1 c2 = none →
    s.inp = .char c1 :: .char c2 :: rest →
    (∀ left, s.ldr.phase = .data left none →
      step s = .next { s with
        inp := rest, ldr := { s.ldr with phase := .data left (some c1) }
        out := s.out ++ [.report .formatError (.format s.ldr.line)], ret := .err .formatError (.format s.ldr.line)
        opmode := .idle }) ∧
    (s.ldr.phase = .check none →
      step s = .next { s with
        inp := rest, ldr := { s.ldr with phase := .check (some c1) }
        out := s.out ++ [.report .formatError (.format s.ldr.line)], ret := .err .formatError (.format s.ldr.line)
        opmode := .idle })

/-- R189: a load address outside the load window ends the load with `BoundsError`, the address and that window; no byte
of memory and no character of the stream is touched. -/
def Obligations.AddressOutsideLoadWindowIsBoundsError : Prop :=
  ∀ (s : State) (n ah al : Byte), inLoadWindow s.cfg (wordOf ah al) = false →
    exec (recordOf n ah al) s = .next { s with
      ldr := { s.ldr with n := n, la := wordOf ah al }
      out := s.out ++ [.report .boundsError (.bounds (some s.ldr.line) (wordOf ah al) s.cfg.lfStart s.cfg.lfMax)]
      ret := .err .boundsError (.bounds (some s.ldr.line) (wordOf ah al) s.cfg.lfStart s.cfg.lfMax), opmode := .idle }

/-- R190 to R193, R195 to R197, R199, R203, R210: a well-formed data record with a correct, non-zero checksum, its data
inside the valid window. Written through, the record's step stores its `N - 3` bytes from the load address on and no other,
gives the registers the record's values, emits `Progress` and begins a new window. Buffered, that step changes no byte of
memory, and the writes follow in order, one a step, so that a reset can come between any two (R260), with `Progress` after
the last. That a buffered write is a step of its own, and that `WRITTEN` counts it then, are the model's choices (log
entries 16 and 13). -/
def Obligations.CorrectRecordIsLoaded : Prop :=
  ∀ (s : State) (n ah al t : Byte) (ds : List Byte) (rest : List StreamItem),
    s.cfg.Admissible → inLoadWindow s.cfg (wordOf ah al) = true → ds.length = n.toNat - 3 →
    (wordOf ah al).toNat + ds.length ≤ s.cfg.max.toNat + 1 → t = ~~~ recordSum n ah al ds → t ≠ 0x00 →
    s.inp = pairsOf ds ++ pairsOf [t] ++ rest →
    (s.cfg.lineCommit = .writeThrough →
      ∃ m, Stored s.mem m (wordOf ah al).toNat ds ∧ (s.mem.wf = true → m.wf = true) ∧
        exec (recordOf n ah al) s = .next (loaded s n ah al t ds rest m)) ∧
    (s.cfg.lineCommit = .buffered →
      exec (recordOf n ah al) s = .next (committing s n ah al t ds rest 0 s.mem) ∧
      (s.opmode = .load → s.host = [] →
        (∀ j, j ≤ ds.length →
          ∃ m, Stored s.mem m (wordOf ah al).toNat (ds.take j) ∧ (s.mem.wf = true → m.wf = true) ∧
            Host.Core.run core j (committing s n ah al t ds rest 0 s.mem) =
              .next (committing s n ah al t ds rest j m)) ∧
        (∃ m, Stored s.mem m (wordOf ah al).toNat ds ∧ (s.mem.wf = true → m.wf = true) ∧
          Host.Core.run core (ds.length + 1) (committing s n ah al t ds rest 0 s.mem) =
            .next (loaded s n ah al t ds rest m))))

/-- R196, R198, R199, R204: a record whose checksum is wrong, or 0x00 even if it matches, ends the load with
`ChecksumError`; written through, its data bytes, inside the valid window, stay in memory; buffered, no byte of memory
changes, wherever the data lie. -/
def Obligations.WrongOrZeroChecksumEndsTheLoad : Prop :=
  ∀ (s : State) (n ah al t : Byte) (ds : List Byte) (rest : List StreamItem),
    s.cfg.Admissible → inLoadWindow s.cfg (wordOf ah al) = true → ds.length = n.toNat - 3 →
    (s.cfg.lineCommit = .writeThrough → (wordOf ah al).toNat + ds.length ≤ s.cfg.max.toNat + 1) →
    (t ≠ ~~~ recordSum n ah al ds ∨ t = 0x00) → s.inp = pairsOf ds ++ pairsOf [t] ++ rest →
    ∃ u, exec (recordOf n ah al) s = .next u ∧ u.opmode = .idle ∧
      u.ret = .err .checksumError (.checksum s.ldr.line (~~~ recordSum n ah al ds) t) ∧
      u.out = s.out ++ [.report .checksumError (.checksum s.ldr.line (~~~ recordSum n ah al ds) t)] ∧
      (s.cfg.lineCommit = .writeThrough → Stored s.mem u.mem (wordOf ah al).toNat ds) ∧
      (s.cfg.lineCommit = .buffered → u.mem = s.mem) ∧
      u.ldr.t = t ∧ u.ldr.f = ~~~ recordSum n ah al ds ∧ u.ldr.line = s.ldr.line ∧ u.inp = rest ∧ u.cfg = s.cfg ∧
      u.dec = s.dec ∧ u.drv = s.drv ∧ u.host = s.host ∧ u.draws = s.draws

/-- R194, R199: a data byte whose address passes MAX ends the load with `BoundsError` and that address; the bytes before it
are stored, and no other byte changes. Written through, it does so as soon as its pair is taken, whatever follows; buffered,
only after the record's checksum was accepted, when its turn to be written comes. The steps of the buffered writes and
their count in `WRITTEN` are the model's choices (log entries 16 and 13). -/
def Obligations.WritePastWindowEndsTheLoad : Prop :=
  ∀ (s : State) (n ah al d : Byte) (ds : List Byte) (rest : List StreamItem),
    s.cfg.Admissible → inLoadWindow s.cfg (wordOf ah al) = true → s.cfg.max.toNat < 65535 →
    (wordOf ah al).toNat + ds.length = s.cfg.max.toNat + 1 →
    (s.cfg.lineCommit = .writeThrough → ds.length + 1 ≤ n.toNat - 3 → s.inp = pairsOf ds ++ pairsOf [d] ++ rest →
      ∃ u, exec (recordOf n ah al) s = .next u ∧ StoppedPastMax s u (wordOf ah al).toNat ds rest) ∧
    (∀ (more : List Byte) (t : Byte), s.cfg.lineCommit = .buffered → s.opmode = .load → s.host = [] →
      (ds ++ d :: more).length = n.toNat - 3 → t = ~~~ recordSum n ah al (ds ++ d :: more) → t ≠ 0x00 →
      s.inp = pairsOf (ds ++ d :: more) ++ pairsOf [t] ++ rest →
      exec (recordOf n ah al) s = .next (committing s n ah al t (ds ++ d :: more) rest 0 s.mem) ∧
      ∃ u, Host.Core.run core (ds.length + 1) (committing s n ah al t (ds ++ d :: more) rest 0 s.mem) = .next u ∧
        StoppedPastMax s u (wordOf ah al).toNat ds rest)

/-- R182, R188 to R192, R200: a header in the load window whose record has no character at hand yet seeds the registers and
waits; and a record whose characters come in two pieces, from its header on, ends as it does when they are all at hand:
where the first piece leaves it in the record, the rest goes on from there; where it ended, the rest stays in the stream. -/
def Obligations.RecordInPiecesIsTheSameRecord : Prop :=
  (∀ (s : State) (n ah al : Byte), inLoadWindow s.cfg (wordOf ah al) = true → s.inp = [] →
    exec (recordOf n ah al) s = .next { s with
      ldr := { s.ldr with
        n := n, la := wordOf ah al, first := s.ldr.first.or (some (wordOf ah al)), acc := n + ah + al
        wc := wordOf ah al, lineBuf := []
        phase := if n.toNat ≤ 3 then .check none else .data (n.toNat - 3) none } }) ∧
  (∀ (s t : State) (xs ys : List StreamItem), StartsRecord s ∨ MidRecord s → s.host = [] →
    step { s with inp := xs } = .next t →
    (MidRecord t → step { s with inp := xs ++ ys } = step { t with inp := ys }) ∧
    (¬ MidRecord t → step { s with inp := xs ++ ys } = .next { t with inp := t.inp ++ ys }))

/-- R201: a load writes only at addresses from LF_START to MAX. -/
def Obligations.LoadWritesOnlyFromLoadStartToMax : Prop :=
  ∀ (s t : State) (a : Nat), Inv s → s.opmode = .load → step s = .next t →
    a < s.cfg.lfStart.toNat ∨ s.cfg.max.toNat < a → Memory.read t.mem a = Memory.read s.mem a
end

