-- ==== Sys2Proof/Laws/State.lean ====
section
/-! SUPPORT. What each update of the state leaves in each field: one lemma per field per update, true by rfl. -/

namespace Sys2Proof.Machine

/-! emit -/

@[simp] theorem emit_cfg (e : Event) (s : State) : (emit e s).cfg = s.cfg := rfl
@[simp] theorem emit_mem (e : Event) (s : State) : (emit e s).mem = s.mem := rfl
@[simp] theorem emit_opmode (e : Event) (s : State) : (emit e s).opmode = s.opmode := rfl
@[simp] theorem emit_dec (e : Event) (s : State) : (emit e s).dec = s.dec := rfl
@[simp] theorem emit_drv (e : Event) (s : State) : (emit e s).drv = s.drv := rfl
@[simp] theorem emit_ldr (e : Event) (s : State) : (emit e s).ldr = s.ldr := rfl
@[simp] theorem emit_inp (e : Event) (s : State) : (emit e s).inp = s.inp := rfl
@[simp] theorem emit_out (e : Event) (s : State) : (emit e s).out = s.out ++ [e] := rfl
@[simp] theorem emit_ret (e : Event) (s : State) : (emit e s).ret = s.ret := rfl
@[simp] theorem emit_host (e : Event) (s : State) : (emit e s).host = s.host := rfl
@[simp] theorem emit_draws (e : Event) (s : State) : (emit e s).draws = s.draws := rfl

/-! raise -/

@[simp] theorem raise_cfg (e : Error) (s : State) : (raise e s).cfg = s.cfg := rfl
@[simp] theorem raise_mem (e : Error) (s : State) : (raise e s).mem = s.mem := rfl
@[simp] theorem raise_opmode (e : Error) (s : State) : (raise e s).opmode = .idle := rfl
@[simp] theorem raise_dec (e : Error) (s : State) : (raise e s).dec = s.dec := rfl
@[simp] theorem raise_drv (e : Error) (s : State) : (raise e s).drv = s.drv := rfl
@[simp] theorem raise_ldr (e : Error) (s : State) : (raise e s).ldr = s.ldr := rfl
@[simp] theorem raise_inp (e : Error) (s : State) : (raise e s).inp = s.inp := rfl
@[simp] theorem raise_out (e : Error) (s : State) : (raise e s).out = s.out ++ [.report e.kind e] := rfl
@[simp] theorem raise_ret (e : Error) (s : State) : (raise e s).ret = .err e.kind e := rfl
@[simp] theorem raise_host (e : Error) (s : State) : (raise e s).host = s.host := rfl
@[simp] theorem raise_draws (e : Error) (s : State) : (raise e s).draws = s.draws := rfl

/-! finish -/

@[simp] theorem finish_cfg (r : Returned) (s : State) : (finish r s).cfg = s.cfg := rfl
@[simp] theorem finish_mem (r : Returned) (s : State) : (finish r s).mem = s.mem := rfl
@[simp] theorem finish_opmode (r : Returned) (s : State) : (finish r s).opmode = .idle := rfl
@[simp] theorem finish_dec (r : Returned) (s : State) : (finish r s).dec = s.dec := rfl
@[simp] theorem finish_drv (r : Returned) (s : State) : (finish r s).drv = s.drv := rfl
@[simp] theorem finish_ldr (r : Returned) (s : State) : (finish r s).ldr = s.ldr := rfl
@[simp] theorem finish_inp (r : Returned) (s : State) : (finish r s).inp = s.inp := rfl
@[simp] theorem finish_out (r : Returned) (s : State) : (finish r s).out = s.out := rfl
@[simp] theorem finish_ret (r : Returned) (s : State) : (finish r s).ret = r := rfl
@[simp] theorem finish_host (r : Returned) (s : State) : (finish r s).host = s.host := rfl
@[simp] theorem finish_draws (r : Returned) (s : State) : (finish r s).draws = s.draws := rfl

/-! startDecode -/

@[simp] theorem startDecode_cfg (a : Addr) (s : State) : (startDecode a s).cfg = s.cfg := rfl
@[simp] theorem startDecode_mem (a : Addr) (s : State) : (startDecode a s).mem = s.mem := rfl
@[simp] theorem startDecode_opmode (a : Addr) (s : State) : (startDecode a s).opmode = s.opmode := rfl
@[simp] theorem startDecode_dec (a : Addr) (s : State) : (startDecode a s).dec = { s.dec with da := a, k := 0, pb := 0x00, is16 := false } := rfl
@[simp] theorem startDecode_drv (a : Addr) (s : State) : (startDecode a s).drv = s.drv := rfl
@[simp] theorem startDecode_ldr (a : Addr) (s : State) : (startDecode a s).ldr = s.ldr := rfl
@[simp] theorem startDecode_inp (a : Addr) (s : State) : (startDecode a s).inp = s.inp := rfl
@[simp] theorem startDecode_out (a : Addr) (s : State) : (startDecode a s).out = s.out := rfl
@[simp] theorem startDecode_ret (a : Addr) (s : State) : (startDecode a s).ret = s.ret := rfl
@[simp] theorem startDecode_host (a : Addr) (s : State) : (startDecode a s).host = s.host := rfl
@[simp] theorem startDecode_draws (a : Addr) (s : State) : (startDecode a s).draws = s.draws := rfl

/-! matchFamily -/

@[simp] theorem matchFamily_cfg (f : Family) (key : Byte) (m : Mode) (s : State) : (matchFamily f key m s).cfg = s.cfg := rfl
@[simp] theorem matchFamily_mem (f : Family) (key : Byte) (m : Mode) (s : State) : (matchFamily f key m s).mem = s.mem := rfl
@[simp] theorem matchFamily_opmode (f : Family) (key : Byte) (m : Mode) (s : State) : (matchFamily f key m s).opmode = s.opmode := rfl
@[simp] theorem matchFamily_dec (f : Family) (key : Byte) (m : Mode) (s : State) : (matchFamily f key m s).dec = { s.dec with fb := familyByte key m, fam := f } := rfl
@[simp] theorem matchFamily_drv (f : Family) (key : Byte) (m : Mode) (s : State) : (matchFamily f key m s).drv = s.drv := rfl
@[simp] theorem matchFamily_ldr (f : Family) (key : Byte) (m : Mode) (s : State) : (matchFamily f key m s).ldr = s.ldr := rfl
@[simp] theorem matchFamily_inp (f : Family) (key : Byte) (m : Mode) (s : State) : (matchFamily f key m s).inp = s.inp := rfl
@[simp] theorem matchFamily_out (f : Family) (key : Byte) (m : Mode) (s : State) : (matchFamily f key m s).out = s.out := rfl
@[simp] theorem matchFamily_ret (f : Family) (key : Byte) (m : Mode) (s : State) : (matchFamily f key m s).ret = s.ret := rfl
@[simp] theorem matchFamily_host (f : Family) (key : Byte) (m : Mode) (s : State) : (matchFamily f key m s).host = s.host := rfl
@[simp] theorem matchFamily_draws (f : Family) (key : Byte) (m : Mode) (s : State) : (matchFamily f key m s).draws = s.draws := rfl

/-! suffixStage -/

@[simp] theorem suffixStage_cfg (s : State) : (suffixStage s).cfg = s.cfg := rfl
@[simp] theorem suffixStage_mem (s : State) : (suffixStage s).mem = s.mem := rfl
@[simp] theorem suffixStage_opmode (s : State) : (suffixStage s).opmode = s.opmode := rfl
@[simp] theorem suffixStage_dec (s : State) : (suffixStage s).dec = { s.dec with sfx := suffixOf s.cfg (suffixKey s.dec.fb) s.dec.pb, is16 := is16Mark s.cfg (suffixKey s.dec.fb) } := rfl
@[simp] theorem suffixStage_drv (s : State) : (suffixStage s).drv = s.drv := rfl
@[simp] theorem suffixStage_ldr (s : State) : (suffixStage s).ldr = s.ldr := rfl
@[simp] theorem suffixStage_inp (s : State) : (suffixStage s).inp = s.inp := rfl
@[simp] theorem suffixStage_out (s : State) : (suffixStage s).out = s.out := rfl
@[simp] theorem suffixStage_ret (s : State) : (suffixStage s).ret = s.ret := rfl
@[simp] theorem suffixStage_host (s : State) : (suffixStage s).host = s.host := rfl
@[simp] theorem suffixStage_draws (s : State) : (suffixStage s).draws = s.draws := rfl

/-! startLoad -/

@[simp] theorem startLoad_cfg (s : State) : (startLoad s).cfg = s.cfg := rfl
@[simp] theorem startLoad_mem (s : State) : (startLoad s).mem = s.mem := rfl
@[simp] theorem startLoad_opmode (s : State) : (startLoad s).opmode = .load := rfl
@[simp] theorem startLoad_dec (s : State) : (startLoad s).dec = s.dec := rfl
@[simp] theorem startLoad_drv (s : State) : (startLoad s).drv = s.drv := rfl
@[simp] theorem startLoad_ldr (s : State) : (startLoad s).ldr = { s.ldr with line := 1, written := 0, first := none, phase := .fill 0 } := rfl
@[simp] theorem startLoad_inp (s : State) : (startLoad s).inp = s.inp := rfl
@[simp] theorem startLoad_out (s : State) : (startLoad s).out = s.out := rfl
@[simp] theorem startLoad_ret (s : State) : (startLoad s).ret = s.ret := rfl
@[simp] theorem startLoad_host (s : State) : (startLoad s).host = s.host := rfl
@[simp] theorem startLoad_draws (s : State) : (startLoad s).draws = s.draws := rfl

/-! slideWindow -/

@[simp] theorem slideWindow_cfg (c : Byte) (s : State) : (slideWindow c s).cfg = s.cfg := rfl
@[simp] theorem slideWindow_mem (c : Byte) (s : State) : (slideWindow c s).mem = s.mem := rfl
@[simp] theorem slideWindow_opmode (c : Byte) (s : State) : (slideWindow c s).opmode = s.opmode := rfl
@[simp] theorem slideWindow_dec (c : Byte) (s : State) : (slideWindow c s).dec = s.dec := rfl
@[simp] theorem slideWindow_drv (c : Byte) (s : State) : (slideWindow c s).drv = s.drv := rfl
@[simp] theorem slideWindow_ldr (c : Byte) (s : State) : (slideWindow c s).ldr = { s.ldr with w := shiftWindow s.ldr.w c } := rfl
@[simp] theorem slideWindow_inp (c : Byte) (s : State) : (slideWindow c s).inp = s.inp := rfl
@[simp] theorem slideWindow_out (c : Byte) (s : State) : (slideWindow c s).out = s.out := rfl
@[simp] theorem slideWindow_ret (c : Byte) (s : State) : (slideWindow c s).ret = s.ret := rfl
@[simp] theorem slideWindow_host (c : Byte) (s : State) : (slideWindow c s).host = s.host := rfl
@[simp] theorem slideWindow_draws (c : Byte) (s : State) : (slideWindow c s).draws = s.draws := rfl

/-! nextRecord -/

@[simp] theorem nextRecord_cfg (s : State) : (nextRecord s).cfg = s.cfg := rfl
@[simp] theorem nextRecord_mem (s : State) : (nextRecord s).mem = s.mem := rfl
@[simp] theorem nextRecord_opmode (s : State) : (nextRecord s).opmode = s.opmode := rfl
@[simp] theorem nextRecord_dec (s : State) : (nextRecord s).dec = s.dec := rfl
@[simp] theorem nextRecord_drv (s : State) : (nextRecord s).drv = s.drv := rfl
@[simp] theorem nextRecord_ldr (s : State) : (nextRecord s).ldr = { s.ldr with line := s.ldr.line + 1, phase := .fill 0 } := rfl
@[simp] theorem nextRecord_inp (s : State) : (nextRecord s).inp = s.inp := rfl
@[simp] theorem nextRecord_out (s : State) : (nextRecord s).out = s.out ++ [.progress] := rfl
@[simp] theorem nextRecord_ret (s : State) : (nextRecord s).ret = s.ret := rfl
@[simp] theorem nextRecord_host (s : State) : (nextRecord s).host = s.host := rfl
@[simp] theorem nextRecord_draws (s : State) : (nextRecord s).draws = s.draws := rfl

/-! endLoad -/

@[simp] theorem endLoad_cfg (s : State) : (endLoad s).cfg = s.cfg := rfl
@[simp] theorem endLoad_mem (s : State) : (endLoad s).mem = s.mem := rfl
@[simp] theorem endLoad_opmode (s : State) : (endLoad s).opmode = .idle := rfl
@[simp] theorem endLoad_dec (s : State) : (endLoad s).dec = s.dec := rfl
@[simp] theorem endLoad_drv (s : State) : (endLoad s).drv = s.drv := rfl
@[simp] theorem endLoad_ldr (s : State) : (endLoad s).ldr = s.ldr := rfl
@[simp] theorem endLoad_inp (s : State) : (endLoad s).inp = s.inp := rfl
@[simp] theorem endLoad_out (s : State) : (endLoad s).out = s.out ++ [.summary s.ldr.first s.ldr.written] := rfl
@[simp] theorem endLoad_ret (s : State) : (endLoad s).ret = .loadOk s.ldr.first s.ldr.written := rfl
@[simp] theorem endLoad_host (s : State) : (endLoad s).host = s.host := rfl
@[simp] theorem endLoad_draws (s : State) : (endLoad s).draws = s.draws := rfl

/-! hardwareReset -/

@[simp] theorem hardwareReset_cfg (s : State) : (hardwareReset s).cfg = s.cfg := rfl
@[simp] theorem hardwareReset_mem (s : State) : (hardwareReset s).mem = s.mem := rfl
@[simp] theorem hardwareReset_opmode (s : State) : (hardwareReset s).opmode = .idle := rfl
@[simp] theorem hardwareReset_dec (s : State) : (hardwareReset s).dec = resetDec := rfl
@[simp] theorem hardwareReset_drv (s : State) : (hardwareReset s).drv = resetDrv := rfl
@[simp] theorem hardwareReset_ldr (s : State) : (hardwareReset s).ldr = resetLdr := rfl
@[simp] theorem hardwareReset_inp (s : State) : (hardwareReset s).inp = s.inp := rfl
@[simp] theorem hardwareReset_out (s : State) : (hardwareReset s).out = [] := rfl
@[simp] theorem hardwareReset_ret (s : State) : (hardwareReset s).ret = .nothing := rfl
@[simp] theorem hardwareReset_host (s : State) : (hardwareReset s).host = s.host := rfl
@[simp] theorem hardwareReset_draws (s : State) : (hardwareReset s).draws = s.draws := rfl

/-! fillWindow, but for `LDR` -/

@[simp] theorem fillWindow_cfg (i : Fin 8) (c : Byte) (s : State) : (fillWindow i c s).cfg = s.cfg := rfl
@[simp] theorem fillWindow_mem (i : Fin 8) (c : Byte) (s : State) : (fillWindow i c s).mem = s.mem := rfl
@[simp] theorem fillWindow_opmode (i : Fin 8) (c : Byte) (s : State) : (fillWindow i c s).opmode = s.opmode := rfl
@[simp] theorem fillWindow_dec (i : Fin 8) (c : Byte) (s : State) : (fillWindow i c s).dec = s.dec := rfl
@[simp] theorem fillWindow_drv (i : Fin 8) (c : Byte) (s : State) : (fillWindow i c s).drv = s.drv := rfl
@[simp] theorem fillWindow_inp (i : Fin 8) (c : Byte) (s : State) : (fillWindow i c s).inp = s.inp := rfl
@[simp] theorem fillWindow_out (i : Fin 8) (c : Byte) (s : State) : (fillWindow i c s).out = s.out := rfl
@[simp] theorem fillWindow_ret (i : Fin 8) (c : Byte) (s : State) : (fillWindow i c s).ret = s.ret := rfl
@[simp] theorem fillWindow_host (i : Fin 8) (c : Byte) (s : State) : (fillWindow i c s).host = s.host := rfl
@[simp] theorem fillWindow_draws (i : Fin 8) (c : Byte) (s : State) : (fillWindow i c s).draws = s.draws := rfl

/-! seedRecord, but for `LDR` -/

@[simp] theorem seedRecord_cfg (n ah al : Byte) (s : State) : (seedRecord n ah al s).cfg = s.cfg := rfl
@[simp] theorem seedRecord_mem (n ah al : Byte) (s : State) : (seedRecord n ah al s).mem = s.mem := rfl
@[simp] theorem seedRecord_opmode (n ah al : Byte) (s : State) : (seedRecord n ah al s).opmode = s.opmode := rfl
@[simp] theorem seedRecord_dec (n ah al : Byte) (s : State) : (seedRecord n ah al s).dec = s.dec := rfl
@[simp] theorem seedRecord_drv (n ah al : Byte) (s : State) : (seedRecord n ah al s).drv = s.drv := rfl
@[simp] theorem seedRecord_inp (n ah al : Byte) (s : State) : (seedRecord n ah al s).inp = s.inp := rfl
@[simp] theorem seedRecord_out (n ah al : Byte) (s : State) : (seedRecord n ah al s).out = s.out := rfl
@[simp] theorem seedRecord_ret (n ah al : Byte) (s : State) : (seedRecord n ah al s).ret = s.ret := rfl
@[simp] theorem seedRecord_host (n ah al : Byte) (s : State) : (seedRecord n ah al s).host = s.host := rfl
@[simp] theorem seedRecord_draws (n ah al : Byte) (s : State) : (seedRecord n ah al s).draws = s.draws := rfl

end Sys2Proof.Machine
end

