-- ==== Sys2Proof/Laws/Memory.lean ====
section
/-! SUPPORT. Memory: a byte read after a write, and the canonical form kept by every write. -/

namespace Sys2Proof.Machine

@[simp] theorem read_nil (a : Nat) : Memory.read [] a = Config.launchByte a := rfl

theorem read_cons (b a : Nat) (w : Byte) (rest : Memory) :
    Memory.read ((b, w) :: rest) a = if a = b then w else Memory.read rest a := by
  simp only [Memory.read, List.lookup_cons]
  by_cases h : a = b
  · simp [h]
  · simp [h, beq_eq_false_iff_ne.mpr h]

/-- Writing keeps the canonical form. -/
theorem write_wfFrom (m : Memory) (a : Nat) (v : Byte) :
    ∀ lo, lo ≤ a → Memory.wfFrom lo m = true → Memory.wfFrom lo (m.write a v) = true := by
  induction m with
  | nil => intro lo hlo _; simpa [Memory.write, Memory.wfFrom] using hlo
  | cons c rest ih =>
    obtain ⟨b, w⟩ := c
    intro lo hlo h
    simp only [Memory.wfFrom, Bool.and_eq_true, decide_eq_true_eq] at h
    unfold Memory.write
    split
    · simp only [Memory.wfFrom, Bool.and_eq_true, decide_eq_true_eq]; exact ⟨hlo, by omega, h.2⟩
    · split
      · simp_all [Memory.wfFrom]
      · simp only [Memory.wfFrom, Bool.and_eq_true, decide_eq_true_eq]; exact ⟨h.1, ih (b + 1) (by omega) h.2⟩

/-- Writing keeps the canonical form. -/
theorem write_wf (m : Memory) (a : Nat) (v : Byte) (h : m.wf = true) : (m.write a v).wf = true :=
  write_wfFrom m a v 0 (Nat.zero_le a) h

/-- A read after a write: the written byte at its address, every other address as before. -/
theorem read_write (m : Memory) (a : Nat) (v : Byte) (x : Nat) :
    Memory.read (m.write a v) x = if x = a then v else Memory.read m x := by
  induction m with
  | nil => simp [Memory.write, read_cons]
  | cons c rest ih =>
    obtain ⟨b, w⟩ := c
    unfold Memory.write
    split
    · rw [read_cons]
    · split
      · next hab =>
        subst hab
        rw [read_cons, read_cons]
        by_cases hx : x = a <;> simp [hx]
      · next hne =>
        rw [read_cons, read_cons, ih]
        by_cases hx : x = b
        · simp [hx, show ¬ b = a from fun e => hne e.symm]
        · simp [hx]

/-- A cell of memory after a write is the written one or was there before. -/
theorem mem_write (m : Memory) (a : Nat) (v : Byte) : ∀ c ∈ m.write a v, c = (a, v) ∨ c ∈ m := by
  induction m with
  | nil => intro c hc; simpa [Memory.write] using hc
  | cons d rest ih =>
    obtain ⟨b, w⟩ := d
    intro c hc
    unfold Memory.write at hc
    split at hc
    · simpa using hc
    · split at hc
      · rcases List.mem_cons.mp hc with h | h
        · exact .inl h
        · exact .inr (List.mem_cons_of_mem _ h)
      · rcases List.mem_cons.mp hc with h | h
        · exact .inr (by simp [h])
        · rcases ih c h with h | h
          · exact .inl h
          · exact .inr (List.mem_cons_of_mem _ h)

/-- Placing bytes keeps the canonical form. -/
theorem placeBytes_wf (bs : List Byte) : ∀ (a : Nat) (m : Memory), m.wf = true → (placeBytes bs a m).wf = true := by
  induction bs with
  | nil => intro _ _ h; exact h
  | cons b rest ih => intro a m h; exact ih (a + 1) _ (write_wf m a b h)

theorem reset_memory_wf : State.reset.mem.wf = true := rfl

end Sys2Proof.Machine
end

