-- ==== Sys2Proof/Laws/Ops.lean ====
section
/-! SUPPORT. What each shared operation can do, said once: the memory primitives, the operand stage, the end of a decode,
the driver's pass, and the record loader's operations. -/

namespace Sys2Proof.Machine

/-! ### Reads and writes -/

theorem memRead_inside {a : Addr} {s : State} (h : inWindow s.cfg a = true) :
    memRead a s = (s.mem.read a.toNat, s) := by
  simp [memRead, h]

theorem memRead_outside {a : Addr} {s : State} (h : inWindow s.cfg a = false) :
    memRead a s = (Config.outsideRead s.draws a, { s with draws := s.draws + 1 }) := by
  simp [memRead, h]

/-- A read changes nothing but the count of draws. -/
theorem memRead_state (a : Addr) (s : State) : (memRead a s).2 = { s with draws := (memRead a s).2.draws } := by
  unfold memRead; split <;> rfl

@[simp] theorem memRead_cfg (a : Addr) (s : State) : (memRead a s).2.cfg = s.cfg := by rw [memRead_state]
@[simp] theorem memRead_mem (a : Addr) (s : State) : (memRead a s).2.mem = s.mem := by rw [memRead_state]
@[simp] theorem memRead_opmode (a : Addr) (s : State) : (memRead a s).2.opmode = s.opmode := by rw [memRead_state]
@[simp] theorem memRead_dec (a : Addr) (s : State) : (memRead a s).2.dec = s.dec := by rw [memRead_state]
@[simp] theorem memRead_drv (a : Addr) (s : State) : (memRead a s).2.drv = s.drv := by rw [memRead_state]
@[simp] theorem memRead_ldr (a : Addr) (s : State) : (memRead a s).2.ldr = s.ldr := by rw [memRead_state]
@[simp] theorem memRead_inp (a : Addr) (s : State) : (memRead a s).2.inp = s.inp := by rw [memRead_state]
@[simp] theorem memRead_out (a : Addr) (s : State) : (memRead a s).2.out = s.out := by rw [memRead_state]
@[simp] theorem memRead_ret (a : Addr) (s : State) : (memRead a s).2.ret = s.ret := by rw [memRead_state]
@[simp] theorem memRead_host (a : Addr) (s : State) : (memRead a s).2.host = s.host := by rw [memRead_state]

/-- Reading bytes changes nothing but the count of draws. -/
theorem readBytes_state (n : Nat) : ∀ (a : Addr) (s : State),
    (readBytes n a s).2 = { s with draws := (readBytes n a s).2.draws } := by
  induction n with
  | zero => intro _ _; rfl
  | succ n ih =>
    intro a s
    have h := ih (a + 1) (memRead a s).2
    simpa [readBytes] using h

@[simp] theorem readBytes_length (n : Nat) : ∀ (a : Addr) (s : State), (readBytes n a s).1.length = n := by
  induction n with
  | zero => intro _ _; rfl
  | succ n ih => intro a s; simp [readBytes, ih]

/-- What a write can do: it succeeds inside the valid window, and fails outside it. -/
theorem memWrite_cases (l : Option Nat) (a : Addr) (v : Byte) (s : State) :
    (inWindow s.cfg a = true ∧ memWrite l a v s = .ok { s with mem := s.mem.write a.toNat v }) ∨
    (inWindow s.cfg a = false ∧ memWrite l a v s = .error (.bounds l a s.cfg.min s.cfg.max)) := by
  unfold memWrite
  cases h : inWindow s.cfg a <;> simp

theorem inWindow_iff (c : Config) (a : Addr) : inWindow c a = true ↔ c.min.toNat ≤ a.toNat ∧ a.toNat ≤ c.max.toNat := by
  simp [inWindow, BitVec.le_def]

theorem inLoadWindow_iff (c : Config) (a : Addr) :
    inLoadWindow c a = true ↔ c.lfStart.toNat ≤ a.toNat ∧ a.toNat ≤ c.lfMax.toNat := by
  simp [inLoadWindow, BitVec.le_def]

/-! ### The stages of a decode -/

/-- The zero skip writes `EXTRA` (0 or 1) and may clear `IS16`; nothing else but draws. -/
theorem zeroSkip_state (m : Mode) (p : Addr) (s : State) :
    zeroSkip m p s = { s with
      dec := { s.dec with is16 := (zeroSkip m p s).dec.is16, extra := (zeroSkip m p s).dec.extra }
      draws := (zeroSkip m p s).draws } := by
  unfold zeroSkip
  split
  · simp only
    split
    · rw [memRead_state]
    · rw [memRead_state]
  · rfl

/-- What the zero skip decides: no skip leaves `IS16` as it is; a skip happens only for a 16-bit immediate. -/
theorem zeroSkip_cases (m : Mode) (p : Addr) (s : State) :
    ((zeroSkip m p s).dec.extra = 0 ∧ (zeroSkip m p s).dec.is16 = s.dec.is16) ∨
    (m = .imm ∧ s.dec.is16 = true ∧ (zeroSkip m p s).dec.extra = 1 ∧ (zeroSkip m p s).dec.is16 = false) := by
  unfold zeroSkip
  split
  · next h =>
    simp only [Bool.and_eq_true, beq_iff_eq] at h
    simp only
    split
    · exact .inr ⟨h.1, h.2, rfl, rfl⟩
    · exact .inl ⟨rfl, by simp⟩
  · exact .inl ⟨rfl, rfl⟩

/-- The render writes `OT` and `OPN`; nothing else but draws. -/
theorem renderOperand_state (m : Mode) (q : Addr) (s : State) :
    renderOperand m q s = { s with
      dec := { s.dec with ot := (renderOperand m q s).dec.ot, opn := (renderOperand m q s).dec.opn }
      draws := (renderOperand m q s).draws } := by
  unfold renderOperand
  split
  · simp only
    rw [memRead_state _ (memRead q s).2, memRead_state q s]
  · simp only
    rw [memRead_state q s]

theorem renderOperand_opn (m : Mode) (q : Addr) (s : State) :
    (renderOperand m q s).dec.opn = if rendersTwo m s.dec.is16 then 2 else 1 := by
  unfold renderOperand; split <;> rfl

/-- The operand stage writes `IS16`, `OPN`, `EXTRA` and `OT`; nothing else but draws. -/
theorem operandStage_state (m : Mode) (p : Addr) (s : State) :
    operandStage m p s = { s with
      dec := { s.dec with
        is16 := (operandStage m p s).dec.is16, opn := (operandStage m p s).dec.opn
        extra := (operandStage m p s).dec.extra, ot := (operandStage m p s).dec.ot }
      draws := (operandStage m p s).draws } := by
  unfold operandStage
  simp only
  rw [renderOperand_state, zeroSkip_state]

/-- The operand bytes of R76's table. -/
def operandCount (m : Mode) (is16 : Bool) : Nat := if rendersTwo m is16 then 2 else 1

/-- `OPN + EXTRA` is R76's count, whatever the bytes are. -/
theorem operandStage_count (m : Mode) (p : Addr) (s : State) :
    (operandStage m p s).dec.opn + (operandStage m p s).dec.extra = operandCount m s.dec.is16 := by
  have hx : (operandStage m p s).dec.extra = (zeroSkip m p s).dec.extra := by
    unfold operandStage; simp only; rw [renderOperand_state]
  have ho : (operandStage m p s).dec.opn = if rendersTwo m (zeroSkip m p s).dec.is16 then 2 else 1 :=
    renderOperand_opn _ _ _
  rw [hx, ho]
  rcases zeroSkip_cases m p s with ⟨h0, h1⟩ | ⟨hm, h16, h1, h2⟩
  · rw [h0, h1]; rfl
  · rw [h1, h2, h16, hm]; rfl

/-- The three stages of a family byte write the decoder's registers; nothing else but draws. -/
theorem familyStages_state (fam : Family) (key : Byte) (m : Mode) (s : State) :
    familyStages fam key m s = { s with
      dec := (familyStages fam key m s).dec, draws := (familyStages fam key m s).draws } := by
  unfold familyStages
  rw [operandStage_state]
  rfl

/-- What the stages leave in the registers the operand stage does not decide. -/
theorem familyStages_dec (fam : Family) (key : Byte) (m : Mode) (s : State) :
    (familyStages fam key m s).dec.da = s.dec.da ∧ (familyStages fam key m s).dec.k = s.dec.k ∧
    (familyStages fam key m s).dec.pb = s.dec.pb ∧ (familyStages fam key m s).dec.fb = familyByte key m ∧
    (familyStages fam key m s).dec.fam = fam ∧
    (familyStages fam key m s).dec.sfx = suffixOf s.cfg (suffixKey (familyByte key m)) s.dec.pb ∧
    (familyStages fam key m s).dec.opn + (familyStages fam key m s).dec.extra =
      operandCount m (is16Mark s.cfg (suffixKey (familyByte key m))) := by
  refine ⟨?_, ?_, ?_, ?_, ?_, ?_, operandStage_count m _ _⟩ <;>
    (unfold familyStages; rw [operandStage_state]; rfl)

/-- A stand-alone decode ends: the result is returned and `OPMODE` is `IDLE`. -/
theorem finishDecode_alone (d : DecodedInstruction) (s : State) (h : s.opmode ≠ .disasm) :
    finishDecode d s = { s with dec := { s.dec with result := d }, ret := .decoded d, opmode := .idle } := by
  unfold finishDecode
  cases hm : s.opmode <;> simp_all [finish]

/-- A decode of a driver run ends with the driver's pass. -/
theorem finishDecode_driver (d : DecodedInstruction) (s : State) (h : s.opmode = .disasm) :
    finishDecode d s = driverPass d { s with dec := { s.dec with result := d } } := by
  unfold finishDecode; rw [h]

/-! ### The driver -/

/-- What the head of the driver's loop can do. -/
theorem driverNext_cases (s : State) :
    (s.drv.cur ≤ s.drv.stop.toNat ∧ driverNext s = startDecode (BitVec.ofNat 16 s.drv.cur) s) ∨
    (s.drv.stop.toNat < s.drv.cur ∧ driverNext s = finish .disasmOk (emit (.endMark s.drv.stop) s)) := by
  unfold driverNext
  by_cases h : s.drv.cur ≤ s.drv.stop.toNat
  · exact .inl ⟨h, if_pos h⟩
  · exact .inr ⟨by omega, if_neg h⟩

/-- What the driver's pass does before the head of the loop. -/
theorem driverPass_eq (d : DecodedInstruction) (s : State) :
    driverPass d s = driverNext { s with
      out := s.out ++ [.instr d (readBytes d.consumedBytes (BitVec.ofNat 16 s.drv.cur) s).1]
      drv := { s.drv with cur := s.drv.cur + d.consumedBytes }
      draws := (readBytes d.consumedBytes (BitVec.ofNat 16 s.drv.cur) s).2.draws } := by
  unfold driverPass
  simp only
  rw [readBytes_state]
  rfl

/-! ### The loader -/

/-- What a data byte's commit can do. -/
theorem commitByte_cases (d : Byte) (s : State) :
    (s.cfg.lineCommit = .writeThrough ∧ inWindow s.cfg s.ldr.wc = true ∧
      commitByte d s = .ok { s with
        mem := s.mem.write s.ldr.wc.toNat d, ldr := { s.ldr with written := s.ldr.written + 1 } }) ∨
    (s.cfg.lineCommit = .writeThrough ∧ inWindow s.cfg s.ldr.wc = false ∧
      commitByte d s = .error (.bounds (some s.ldr.line) s.ldr.wc s.cfg.min s.cfg.max)) ∨
    (s.cfg.lineCommit = .buffered ∧
      commitByte d s = .ok { s with ldr := { s.ldr with lineBuf := s.ldr.lineBuf ++ [(s.ldr.wc, d)] } }) := by
  unfold commitByte
  cases h : s.cfg.lineCommit
  · rcases memWrite_cases (some s.ldr.line) s.ldr.wc d s with ⟨hw, e⟩ | ⟨hw, e⟩ <;> simp [e, hw]
  · simp

/-- One character of a record touches memory, `LDR`, `OUT`, `OPMODE` and the returned value, nothing else. -/
theorem recordChar_frame (c : Byte) (s : State) :
    (recordChar c s).1.cfg = s.cfg ∧ (recordChar c s).1.dec = s.dec ∧ (recordChar c s).1.drv = s.drv ∧
    (recordChar c s).1.inp = s.inp ∧ (recordChar c s).1.host = s.host ∧ (recordChar c s).1.draws = s.draws := by
  have accept : ∀ u : State, (acceptRecord u).cfg = u.cfg ∧ (acceptRecord u).dec = u.dec ∧
      (acceptRecord u).drv = u.drv ∧ (acceptRecord u).inp = u.inp ∧ (acceptRecord u).host = u.host ∧
      (acceptRecord u).draws = u.draws := by
    intro u
    unfold acceptRecord
    split <;> simp
  unfold recordChar
  split
  · simp
  · unfold dataPair
    split
    · next d _ =>
      unfold dataByte
      rcases commitByte_cases d { s with ldr := { s.ldr with acc := s.ldr.acc + d } } with
        ⟨_, _, e⟩ | ⟨_, _, e⟩ | ⟨_, e⟩ <;> simp only [e] <;> simp
    · simp
  · simp
  · unfold checkPair
    split
    · unfold checkRecord
      simp only
      split
      · simp
      · exact accept _
    · simp
  · simp
  · simp
  · simp

/-- A record over the characters at hand touches memory, `LDR`, `IN`, `OUT`, `OPMODE` and the returned value, nothing
else. -/
theorem runRecord_frame (l : List StreamItem) : ∀ s : State,
    (runRecord l s).cfg = s.cfg ∧ (runRecord l s).dec = s.dec ∧ (runRecord l s).drv = s.drv ∧
    (runRecord l s).host = s.host ∧ (runRecord l s).draws = s.draws := by
  induction l with
  | nil => intro s; simp [runRecord]
  | cons x rest ih =>
    intro s
    cases x with
    | eos => simp [runRecord]
    | char c =>
      have hc := recordChar_frame c { s with inp := rest }
      unfold runRecord
      simp only
      split
      · have h := ih (recordChar c { s with inp := rest }).1
        simp_all
      · simp_all

/-- What a step of a buffered record's writes can do: the record is done, one byte is written, or the load ends. -/
theorem commitNext_cases (s : State) :
    (s.ldr.lineBuf = [] ∧ commitNext s = nextRecord s) ∨
    (∃ a d rest, s.ldr.lineBuf = (a, d) :: rest ∧ inWindow s.cfg a = true ∧
      commitNext s = { s with
        mem := s.mem.write a.toNat d, ldr := { s.ldr with written := s.ldr.written + 1, lineBuf := rest } }) ∨
    (∃ a d rest, s.ldr.lineBuf = (a, d) :: rest ∧ inWindow s.cfg a = false ∧
      commitNext s = raise (.bounds (some s.ldr.line) a s.cfg.min s.cfg.max) s) := by
  unfold commitNext
  split
  · next h => exact .inl ⟨h, rfl⟩
  · next a d rest h =>
    rcases memWrite_cases (some s.ldr.line) a d s with ⟨hw, e⟩ | ⟨hw, e⟩
    · exact .inr (.inl ⟨a, d, rest, h, hw, by rw [e]⟩)
    · exact .inr (.inr ⟨a, d, rest, h, hw, by rw [e]⟩)

/-- What taking a character can do. -/
theorem recvChar_cases (use : Byte → State → State) (s : State) :
    (s.inp = [] ∧ recvChar use s = s) ∨
    (∃ rest, s.inp = .eos :: rest ∧ recvChar use s = raise (.streamEnd s.ldr.line) { s with inp := rest }) ∨
    (∃ c rest, s.inp = .char c :: rest ∧ recvChar use s = use c { s with inp := rest }) := by
  unfold recvChar
  split
  · next h => exact .inl ⟨h, rfl⟩
  · next rest h => exact .inr (.inl ⟨rest, h, rfl⟩)
  · next c rest h => exact .inr (.inr ⟨c, rest, h, rfl⟩)

end Sys2Proof.Machine
end

