-- ==== Sys2Proof/Laws/PerInstr.lean ====
section
/-! SUPPORT. A family of statements about the instructions as syntax, one lemma per constructor: a well-formed
instruction's encoding has the bits its row of spec/opcode_table.json fixes. -/

namespace Sys2Proof

/-- The word of a well-formed instruction, under its row's mask, is the row's match. -/
def Laws.TableRow.Statement (i : Instr) : Prop := i.wf = true → i.tableWord &&& i.row.mask = i.row.pattern

theorem Laws.TableRow.addd (m : Mode) : Laws.TableRow.Statement (.addd m) := fun _ => by cases m <;> rfl
theorem Laws.TableRow.addb (m : Mode) : Laws.TableRow.Statement (.addb m) := fun _ => by cases m <;> rfl
theorem Laws.TableRow.adca (m : Mode) : Laws.TableRow.Statement (.adca m) := fun _ => by cases m <;> rfl
theorem Laws.TableRow.adcb (m : Mode) : Laws.TableRow.Statement (.adcb m) := fun _ => by cases m <;> rfl
theorem Laws.TableRow.adda (m : Mode) : Laws.TableRow.Statement (.adda m) := fun _ => by cases m <;> rfl
theorem Laws.TableRow.subb (m : Mode) : Laws.TableRow.Statement (.subb m) := fun _ => by cases m <;> rfl
theorem Laws.TableRow.suba (m : Mode) : Laws.TableRow.Statement (.suba m) := fun _ => by cases m <;> rfl
theorem Laws.TableRow.ldaa (m : Mode) : Laws.TableRow.Statement (.ldaa m) := fun _ => by cases m <;> rfl
theorem Laws.TableRow.staa (m : Mode) : Laws.TableRow.Statement (.staa m) := fun _ => by cases m <;> rfl
theorem Laws.TableRow.ldab (m : Mode) : Laws.TableRow.Statement (.ldab m) := fun _ => by cases m <;> rfl
theorem Laws.TableRow.stab (m : Mode) : Laws.TableRow.Statement (.stab m) := fun _ => by cases m <;> rfl
theorem Laws.TableRow.subd (m : Mode) : Laws.TableRow.Statement (.subd m) := fun _ => by cases m <;> rfl
theorem Laws.TableRow.ldd (m : Mode) : Laws.TableRow.Statement (.ldd m) := fun _ => by cases m <;> rfl
theorem Laws.TableRow.std (m : Mode) : Laws.TableRow.Statement (.std m) := fun _ => by cases m <;> rfl
theorem Laws.TableRow.lds (m : Mode) : Laws.TableRow.Statement (.lds m) := fun _ => by cases m <;> rfl
theorem Laws.TableRow.sts (m : Mode) : Laws.TableRow.Statement (.sts m) := fun _ => by cases m <;> rfl
theorem Laws.TableRow.ldx (m : Mode) : Laws.TableRow.Statement (.ldx m) := fun _ => by cases m <;> rfl
theorem Laws.TableRow.ldy (m : Mode) : Laws.TableRow.Statement (.ldy m) := fun _ => by cases m <;> rfl
theorem Laws.TableRow.ldCE (m : Mode) : Laws.TableRow.Statement (.ldCE m) := fun _ => by cases m <;> rfl
theorem Laws.TableRow.stx (m : Mode) : Laws.TableRow.Statement (.stx m) := fun _ => by cases m <;> rfl
theorem Laws.TableRow.sty (m : Mode) : Laws.TableRow.Statement (.sty m) := fun _ => by cases m <;> rfl
theorem Laws.TableRow.stCF (m : Mode) : Laws.TableRow.Statement (.stCF m) := fun _ => by cases m <;> rfl
theorem Laws.TableRow.ld84 (m : Mode) : Laws.TableRow.Statement (.ld84 m) := fun _ => by cases m <;> rfl
theorem Laws.TableRow.ld8C (m : Mode) : Laws.TableRow.Statement (.ld8C m) := fun _ => by cases m <;> rfl
theorem Laws.TableRow.ldC4 (m : Mode) : Laws.TableRow.Statement (.ldC4 m) := fun _ => by cases m <;> rfl
theorem Laws.TableRow.st85 (m : Mode) : Laws.TableRow.Statement (.st85 m) := fun _ => by cases m <;> rfl
theorem Laws.TableRow.st8D (m : Mode) : Laws.TableRow.Statement (.st8D m) := fun _ => by cases m <;> rfl
theorem Laws.TableRow.stC5 (m : Mode) : Laws.TableRow.Statement (.stC5 m) := fun _ => by cases m <;> rfl
theorem Laws.TableRow.sub82 (m : Mode) : Laws.TableRow.Statement (.sub82 m) := fun _ => by cases m <;> rfl
theorem Laws.TableRow.sub88 (m : Mode) : Laws.TableRow.Statement (.sub88 m) := fun _ => by cases m <;> rfl
theorem Laws.TableRow.sub8A (m : Mode) : Laws.TableRow.Statement (.sub8A m) := fun _ => by cases m <;> rfl
theorem Laws.TableRow.subC2 (m : Mode) : Laws.TableRow.Statement (.subC2 m) := fun _ => by cases m <;> rfl
theorem Laws.TableRow.subC8 (m : Mode) : Laws.TableRow.Statement (.subC8 m) := fun _ => by cases m <;> rfl
theorem Laws.TableRow.subCA (m : Mode) : Laws.TableRow.Statement (.subCA m) := fun _ => by cases m <;> rfl
theorem Laws.TableRow.ad81 (m : Mode) : Laws.TableRow.Statement (.ad81 m) := fun _ => by cases m <;> rfl
theorem Laws.TableRow.adC1 (m : Mode) : Laws.TableRow.Statement (.adC1 m) := fun _ => by cases m <;> rfl

/-- A byte under the family mask keeps its value when both are read as 16-bit words. -/
theorem class_word (b m : Byte) (h : (b &&& 0x85 == m) = true) :
    b.zeroExtend 16 &&& 0x85 = m.zeroExtend 16 := by
  have e : b &&& 0x85 = m := eq_of_beq h
  subst e
  exact (BitVec.setWidth_and (x := b) (y := 0x85) (k := 16)).symm

theorem Laws.TableRow.esc (b : Byte) : Laws.TableRow.Statement (.esc b) := fun h => class_word b 0x00 h
theorem Laws.TableRow.escCD : Laws.TableRow.Statement .escCD := fun _ => rfl
theorem Laws.TableRow.null01 (b : Byte) : Laws.TableRow.Statement (.null01 b) := fun h => class_word b 0x01 h
theorem Laws.TableRow.null04 (b : Byte) : Laws.TableRow.Statement (.null04 b) := fun h => class_word b 0x04 h
theorem Laws.TableRow.null05 (b : Byte) : Laws.TableRow.Statement (.null05 b) := fun h => class_word b 0x05 h
theorem Laws.TableRow.s1 (c2 c3 c4 c5 c6 c7 : Byte) : Laws.TableRow.Statement (.s1 c2 c3 c4 c5 c6 c7) :=
  fun _ => show (charS ++ char1 : BitVec 16) &&& 0xFFFF = 0x5331 by decide
theorem Laws.TableRow.s9 (c2 c3 c4 c5 c6 c7 : Byte) : Laws.TableRow.Statement (.s9 c2 c3 c4 c5 c6 c7) :=
  fun _ => show (charS ++ char9 : BitVec 16) &&& 0xFFFF = 0x5339 by decide

end Sys2Proof
end

