-- ==== Sys2Proof/Tests/Slice0.lean ====
section
/-! SUPPORT. Tests: the WellFormed smoke tests, a written word for every constructor, one or two steps per instruction
with the results of spec/95_test_vectors.md, and for each statement with hypotheses a state that meets them. -/

namespace Sys2Proof.Machine.Tests

/-! ### WellFormed refuses an ill-formed term of each check -/

theorem test_wf_refuses_std_immediate : (Instr.std .imm).wf = false := by decide
theorem test_wf_refuses_esc_of_family_byte : (Instr.esc 0x86).wf = false := by decide
theorem test_wf_refuses_null01_of_escape : (Instr.null01 0x18).wf = false := by decide
theorem test_wf_refuses_null04_of_other_class : (Instr.null04 0x39).wf = false := by decide
theorem test_wf_refuses_null05_of_other_class : (Instr.null05 0x04).wf = false := by decide
theorem test_wfAt_refuses_ldx_after_18 : (Instr.ldx .imm).wfAt 0x18 = false := by decide
theorem test_wfAt_refuses_sty_unset : (Instr.sty .dir).wfAt 0x00 = false := by decide
theorem test_wfAt_refuses_stCF_after_CD : (Instr.stCF .idx).wfAt 0xCD = false := by decide

/-! ### Every constructor, from a word written out from R71 to R75 and R83 -/

theorem test_decode_addd : decode (.opcode 0x00) [0b11010011] = .ok (.addd .dir, []) := by rfl
theorem test_decode_addb : decode (.opcode 0x00) [0b11101011] = .ok (.addb .idx, []) := by rfl
theorem test_decode_adca : decode (.opcode 0x00) [0b10111001] = .ok (.adca .ext, []) := by rfl
theorem test_decode_adcb : decode (.opcode 0x00) [0b11011001] = .ok (.adcb .dir, []) := by rfl
theorem test_decode_adda : decode (.opcode 0x00) [0b10101011] = .ok (.adda .idx, []) := by rfl
theorem test_decode_subb : decode (.opcode 0x00) [0b11110000] = .ok (.subb .ext, []) := by rfl
theorem test_decode_suba : decode (.opcode 0x00) [0b10010000] = .ok (.suba .dir, []) := by rfl
theorem test_decode_ldaa : decode (.opcode 0x00) [0b10100110] = .ok (.ldaa .idx, []) := by rfl
theorem test_decode_staa : decode (.opcode 0x00) [0b10110111] = .ok (.staa .ext, []) := by rfl
theorem test_decode_ldab : decode (.opcode 0x00) [0b11010110] = .ok (.ldab .dir, []) := by rfl
theorem test_decode_stab : decode (.opcode 0x00) [0b11100111] = .ok (.stab .idx, []) := by rfl
theorem test_decode_subd : decode (.opcode 0x00) [0b10110011] = .ok (.subd .ext, []) := by rfl
theorem test_decode_ldd : decode (.opcode 0x00) [0b11011100] = .ok (.ldd .dir, []) := by rfl
theorem test_decode_std : decode (.opcode 0x00) [0b11101101] = .ok (.std .idx, []) := by rfl
theorem test_decode_lds : decode (.opcode 0x00) [0b10111110] = .ok (.lds .ext, []) := by rfl
theorem test_decode_sts : decode (.opcode 0x00) [0b10011111] = .ok (.sts .dir, []) := by rfl
theorem test_decode_ldx : decode (.opcode 0xCD) [0b11101110] = .ok (.ldx .idx, []) := by rfl
theorem test_decode_ldy : decode (.opcode 0x18) [0b11111110] = .ok (.ldy .ext, []) := by rfl
theorem test_decode_ldCE : decode (.opcode 0x1A) [0b11011110] = .ok (.ldCE .dir, []) := by rfl
theorem test_decode_stx : decode (.opcode 0x00) [0b11101111] = .ok (.stx .idx, []) := by rfl
theorem test_decode_sty : decode (.opcode 0x18) [0b11111111] = .ok (.sty .ext, []) := by rfl
theorem test_decode_stCF : decode (.opcode 0x02) [0b11011111] = .ok (.stCF .dir, []) := by rfl
theorem test_decode_ld84 : decode (.opcode 0x00) [0b10100100] = .ok (.ld84 .idx, []) := by rfl
theorem test_decode_ld8C : decode (.opcode 0x00) [0b10111100] = .ok (.ld8C .ext, []) := by rfl
theorem test_decode_ldC4 : decode (.opcode 0x00) [0b11010100] = .ok (.ldC4 .dir, []) := by rfl
theorem test_decode_st85 : decode (.opcode 0x00) [0b10100101] = .ok (.st85 .idx, []) := by rfl
theorem test_decode_st8D : decode (.opcode 0x00) [0b10111101] = .ok (.st8D .ext, []) := by rfl
theorem test_decode_stC5 : decode (.opcode 0x00) [0b11010101] = .ok (.stC5 .dir, []) := by rfl
theorem test_decode_sub82 : decode (.opcode 0x00) [0b10100010] = .ok (.sub82 .idx, []) := by rfl
theorem test_decode_sub88 : decode (.opcode 0x00) [0b10111000] = .ok (.sub88 .ext, []) := by rfl
theorem test_decode_sub8A : decode (.opcode 0x00) [0b10011010] = .ok (.sub8A .dir, []) := by rfl
theorem test_decode_subC2 : decode (.opcode 0x00) [0b11100010] = .ok (.subC2 .idx, []) := by rfl
theorem test_decode_subC8 : decode (.opcode 0x00) [0b11111000] = .ok (.subC8 .ext, []) := by rfl
theorem test_decode_subCA : decode (.opcode 0x00) [0b11011010] = .ok (.subCA .dir, []) := by rfl
theorem test_decode_ad81 : decode (.opcode 0x00) [0b10100001] = .ok (.ad81 .idx, []) := by rfl
theorem test_decode_adC1 : decode (.opcode 0x00) [0b11110001] = .ok (.adC1 .ext, []) := by rfl
theorem test_decode_esc : decode (.opcode 0x00) [0b00011010] = .ok (.esc 0x1A, []) := by rfl
theorem test_decode_escCD : decode (.opcode 0x18) [0b11001101] = .ok (.escCD, []) := by rfl
theorem test_decode_null01 : decode (.opcode 0x00) [0b00111001, 0x86] = .ok (.null01 0x39, [0x86]) := by rfl
theorem test_decode_null04 : decode (.opcode 0x00) [0b01111110] = .ok (.null04 0x7E, []) := by rfl
theorem test_decode_null05 : decode (.opcode 0x00) [0b00001111] = .ok (.null05 0x0F, []) := by rfl
theorem test_decode_s1 : decode .record [0x53, 0x31, 0x30, 0x37, 0x31, 0x30, 0x30, 0x30, 0x38] =
    .ok (.s1 0x30 0x37 0x31 0x30 0x30 0x30, [0x38]) := by rfl
theorem test_decode_s9 : decode .record [0x53, 0x39, 0x30, 0x33, 0x30, 0x30, 0x30, 0x30, 0x46, 0x43] =
    .ok (.s9 0x30 0x33 0x30 0x30 0x30 0x30, [0x46, 0x43]) := by rfl
theorem test_decode_s0_is_no_record : decode .record [0x53, 0x30, 0x30, 0x36, 0x30, 0x30, 0x30, 0x30] =
    .error .notARecord := by rfl

/-! ### One step of a decode (95_test_vectors.md, section 2) -/

/-- A stand-alone decode at 0x2000, `k` escapes skipped, the last one `pb`; `bs` lies from the cursor on. -/
def decoding (k : Nat) (pb : Byte) (bs : List Byte) : State :=
  { State.reset with
    opmode := .decode, mem := placeBytes bs (0x2000 + k) []
    dec := { State.reset.dec with da := 0x2000, k := k, pb := pb } }

/-- The result record of a step that ended a decode. -/
def resultOf : Host.Outcome State Fault Refusal → Option (Nat × String × String × Bool)
  | .next t =>
    if t.opmode = .idle then
      some (t.dec.result.consumedBytes, t.dec.result.mnemonic, t.dec.result.operandText, t.dec.result.valid)
    else none
  | _ => none

/-- `86 2A`. -/
theorem test_ldaa : resultOf (step (decoding 0 0x00 [0x86, 0x2A])) =
    some (2, "ldaa", "#$2A", true) := by decide
/-- `18 A6 05`. -/
theorem test_ldaa_again : resultOf (step (decoding 1 0x18 [0xA6, 0x05])) =
    some (3, "ldaa", "$05,Y", true) := by decide
/-- `C6 00`. -/
theorem test_ldab : resultOf (step (decoding 0 0x00 [0xC6, 0x00])) =
    some (2, "ldab", "#$00", true) := by decide
/-- `F6 12 00`. -/
theorem test_ldab_again : resultOf (step (decoding 0 0x00 [0xF6, 0x12, 0x00])) =
    some (3, "ldab", "$1200", true) := by decide
/-- `CC 00 12`. -/
theorem test_ldd : resultOf (step (decoding 0 0x00 [0xCC, 0x00, 0x12])) =
    some (3, "ldd", "#$12", true) := by decide
/-- `FC 00 20`. -/
theorem test_ldd_again : resultOf (step (decoding 0 0x00 [0xFC, 0x00, 0x20])) =
    some (3, "ldd", "$0020", true) := by decide
/-- `8E 7F FF`. -/
theorem test_lds : resultOf (step (decoding 0 0x00 [0x8E, 0x7F, 0xFF])) =
    some (3, "lds", "#$7FFF", true) := by decide
/-- `AE 01`. -/
theorem test_lds_again : resultOf (step (decoding 0 0x00 [0xAE, 0x01])) =
    some (2, "lds", "$01,X", true) := by decide
/-- `CE 12 34`. -/
theorem test_ldx : resultOf (step (decoding 0 0x00 [0xCE, 0x12, 0x34])) =
    some (2, "ldx", "#$12", true) := by decide
/-- `CD EE 04`. -/
theorem test_ldx_again : resultOf (step (decoding 1 0xCD [0xEE, 0x04])) =
    some (3, "ldx", "$04,Y", true) := by decide
/-- `CD 18 CE 01`. -/
theorem test_ldy : resultOf (step (decoding 2 0x18 [0xCE, 0x01])) =
    some (4, "ldy", "#$01", true) := by decide
/-- `18 EE 03`. -/
theorem test_ldy_again : resultOf (step (decoding 1 0x18 [0xEE, 0x03])) =
    some (3, "ldy", "$03,Y", true) := by decide
/-- `1A EE 05`. -/
theorem test_ldCE : resultOf (step (decoding 1 0x1A [0xEE, 0x05])) =
    some (3, "ld", "$05,X", true) := by decide
/-- `02 EE 03`. -/
theorem test_ldCE_again : resultOf (step (decoding 1 0x02 [0xEE, 0x03])) =
    some (3, "ld", "$03", true) := by decide
/-- `84 0F`. -/
theorem test_ld84 : resultOf (step (decoding 0 0x00 [0x84, 0x0F])) =
    some (2, "ld", "#$0F", true) := by decide
/-- `8C 12 34`. -/
theorem test_ld8C : resultOf (step (decoding 0 0x00 [0x8C, 0x12, 0x34])) =
    some (2, "ld", "#$12", true) := by decide
/-- `C4 F0`. -/
theorem test_ldC4 : resultOf (step (decoding 0 0x00 [0xC4, 0xF0])) =
    some (2, "ld", "#$F0", true) := by decide
/-- `87 55`. -/
theorem test_staa : resultOf (step (decoding 0 0x00 [0x87, 0x55])) =
    some (2, "staa", "#$55", true) := by decide
/-- `B7 10 00`. -/
theorem test_staa_again : resultOf (step (decoding 0 0x00 [0xB7, 0x10, 0x00])) =
    some (3, "staa", "$1000", true) := by decide
/-- `D7 11`. -/
theorem test_stab : resultOf (step (decoding 0 0x00 [0xD7, 0x11])) =
    some (2, "stab", "$11", true) := by decide
/-- `E7 02`. -/
theorem test_stab_again : resultOf (step (decoding 0 0x00 [0xE7, 0x02])) =
    some (2, "stab", "$02,X", true) := by decide
/-- `ED 01`. -/
theorem test_std : resultOf (step (decoding 0 0x00 [0xED, 0x01])) =
    some (2, "std", "$01,X", true) := by decide
/-- `FD 33 44`. -/
theorem test_std_again : resultOf (step (decoding 0 0x00 [0xFD, 0x33, 0x44])) =
    some (3, "std", "$3344", true) := by decide
/-- `8F 00 05`. -/
theorem test_sts : resultOf (step (decoding 0 0x00 [0x8F, 0x00, 0x05])) =
    some (3, "sts", "#$05", true) := by decide
/-- `9F 30`. -/
theorem test_sts_again : resultOf (step (decoding 0 0x00 [0x9F, 0x30])) =
    some (2, "sts", "$30", true) := by decide
/-- `CF 05`. -/
theorem test_stx : resultOf (step (decoding 0 0x00 [0xCF, 0x05])) =
    some (2, "stx", "#$05", true) := by decide
/-- `CD EF 07`. -/
theorem test_stx_again : resultOf (step (decoding 1 0xCD [0xEF, 0x07])) =
    some (3, "stx", "$07,Y", true) := by decide
/-- `18 DF 41`. -/
theorem test_sty : resultOf (step (decoding 1 0x18 [0xDF, 0x41])) =
    some (3, "sty", "$41", true) := by decide
/-- `18 EF 06`. -/
theorem test_sty_again : resultOf (step (decoding 1 0x18 [0xEF, 0x06])) =
    some (3, "sty", "$06,Y", true) := by decide
/-- `1A EF 08`. -/
theorem test_stCF : resultOf (step (decoding 1 0x1A [0xEF, 0x08])) =
    some (3, "st", "$08,X", true) := by decide
/-- `95 01`. -/
theorem test_st85 : resultOf (step (decoding 0 0x00 [0x95, 0x01])) =
    some (2, "st", "$01", true) := by decide
/-- `8D 09`. -/
theorem test_st8D : resultOf (step (decoding 0 0x00 [0x8D, 0x09])) =
    some (2, "st", "#$09", true) := by decide
/-- `C5 0A`. -/
theorem test_stC5 : resultOf (step (decoding 0 0x00 [0xC5, 0x0A])) =
    some (2, "st", "#$0A", true) := by decide
/-- `80 01`. -/
theorem test_suba : resultOf (step (decoding 0 0x00 [0x80, 0x01])) =
    some (2, "suba", "#$01", true) := by decide
/-- `B0 00 04`. -/
theorem test_suba_again : resultOf (step (decoding 0 0x00 [0xB0, 0x00, 0x04])) =
    some (3, "suba", "$0004", true) := by decide
/-- `E0 FF`. -/
theorem test_subb : resultOf (step (decoding 0 0x00 [0xE0, 0xFF])) =
    some (2, "subb", "$FF,X", true) := by decide
/-- `F0 12 34`. -/
theorem test_subb_again : resultOf (step (decoding 0 0x00 [0xF0, 0x12, 0x34])) =
    some (3, "subb", "$1234", true) := by decide
/-- `83 00 01`. -/
theorem test_subd : resultOf (step (decoding 0 0x00 [0x83, 0x00, 0x01])) =
    some (3, "subd", "#$01", true) := by decide
/-- `CD A3 09`. -/
theorem test_subd_again : resultOf (step (decoding 1 0xCD [0xA3, 0x09])) =
    some (3, "subd", "$09,Y", true) := by decide
/-- `82 11`. -/
theorem test_sub82 : resultOf (step (decoding 0 0x00 [0x82, 0x11])) =
    some (2, "sub", "#$11", true) := by decide
/-- `88 12`. -/
theorem test_sub88 : resultOf (step (decoding 0 0x00 [0x88, 0x12])) =
    some (2, "sub", "#$12", true) := by decide
/-- `AA 01`. -/
theorem test_sub8A : resultOf (step (decoding 0 0x00 [0xAA, 0x01])) =
    some (2, "sub", "$01,X", true) := by decide
/-- `CA 02`. -/
theorem test_subCA : resultOf (step (decoding 0 0x00 [0xCA, 0x02])) =
    some (2, "sub", "#$02", true) := by decide
/-- `AB 05`. -/
theorem test_adda : resultOf (step (decoding 0 0x00 [0xAB, 0x05])) =
    some (2, "adda", "$05,X", true) := by decide
/-- `18 AB 06`. -/
theorem test_adda_again : resultOf (step (decoding 1 0x18 [0xAB, 0x06])) =
    some (3, "adda", "$06,Y", true) := by decide
/-- `CB 02`. -/
theorem test_addb : resultOf (step (decoding 0 0x00 [0xCB, 0x02])) =
    some (2, "addb", "#$02", true) := by decide
/-- `FB 7D FF`. -/
theorem test_addb_again : resultOf (step (decoding 0 0x00 [0xFB, 0x7D, 0xFF])) =
    some (3, "addb", "$7DFF", true) := by decide
/-- `C3 00 FF`. -/
theorem test_addd : resultOf (step (decoding 0 0x00 [0xC3, 0x00, 0xFF])) =
    some (3, "addd", "#$FF", true) := by decide
/-- `C3 01 00`. -/
theorem test_addd_again : resultOf (step (decoding 0 0x00 [0xC3, 0x01, 0x00])) =
    some (3, "addd", "#$0100", true) := by decide
/-- `A9 00`. -/
theorem test_adca : resultOf (step (decoding 0 0x00 [0xA9, 0x00])) =
    some (2, "adca", "$00,X", true) := by decide
/-- `B9 12 34`. -/
theorem test_adca_again : resultOf (step (decoding 0 0x00 [0xB9, 0x12, 0x34])) =
    some (3, "adca", "$1234", true) := by decide
/-- `C9 04`. -/
theorem test_adcb : resultOf (step (decoding 0 0x00 [0xC9, 0x04])) =
    some (2, "adcb", "#$04", true) := by decide
/-- `F9 00 00`. -/
theorem test_adcb_again : resultOf (step (decoding 0 0x00 [0xF9, 0x00, 0x00])) =
    some (3, "adcb", "$0000", true) := by decide
/-- `81 07`. -/
theorem test_ad81 : resultOf (step (decoding 0 0x00 [0x81, 0x07])) =
    some (2, "ad", "#$07", true) := by decide
/-- `C1 08`. -/
theorem test_adC1 : resultOf (step (decoding 0 0x00 [0xC1, 0x08])) =
    some (2, "ad", "#$08", true) := by decide
/-- `C2 12 34`. -/
theorem test_subC2 : resultOf (step (decoding 0 0x00 [0xC2, 0x12, 0x34])) =
    some (2, "sub", "#$12", true) := by decide
/-- `F8 12 34`. -/
theorem test_subC8 : resultOf (step (decoding 0 0x00 [0xF8, 0x12, 0x34])) =
    some (3, "sub", "$1234", true) := by decide
/-- `18 39`: the escape is remembered, and the decode goes on. -/
theorem test_esc : (match step (decoding 0 0x00 [0x18, 0x39]) with
    | .next t => (t.opmode, t.dec.pb, t.dec.k, t.dec.da)
    | _ => (.idle, 0, 0, 0)) = (.decode, 0x18, 1, 0x2000) := by decide
/-- `18 18 18 18 86`: the fourth escape. -/
theorem test_esc_fourth : resultOf (step (decoding 3 0x18 [0x18, 0x86])) = some (4, "NULL", "", false) := by decide
/-- `CD EE 04`: 0xCD is an escape. -/
theorem test_escCD : (match step (decoding 1 0x18 [0xCD]) with
    | .next t => (t.opmode, t.dec.pb, t.dec.k) | _ => (.idle, 0, 0)) = (.decode, 0xCD, 2) := by decide
/-- `CD CD CD CD`. -/
theorem test_escCD_fourth : resultOf (step (decoding 3 0xCD [0xCD])) = some (4, "NULL", "", false) := by decide
/-- `39`. -/
theorem test_null01 : resultOf (step (decoding 0 0x00 [0x39])) = some (1, "NULL", "", false) := by decide
/-- `CD 7E`. -/
theorem test_null04 : resultOf (step (decoding 1 0xCD [0x7E, 0x12])) = some (2, "NULL", "", false) := by decide
/-- `05`. -/
theorem test_null05 : resultOf (step (decoding 0 0x00 [0x05])) = some (1, "NULL", "", false) := by decide
/-- `CE 12 34` with `P_XY_IS16 = true`. -/
theorem test_ldx_sixteen_bit : resultOf (step
    (let s := decoding 0 0x00 [0xCE, 0x12, 0x34]; { s with cfg := { s.cfg with xyIs16 := true } })) =
    some (3, "ldx", "#$1234", true) := by decide

/-! ### One step of the driver (section 2.7) -/

/-- A machine with bytes at an address and a move of the host due. -/
def requested (a : Nat) (bs : List Byte) (m : HostMove) : State :=
  { State.reset with mem := placeBytes bs a [], host := [m] }

/-- The events of a step's next state. -/
def eventsOf : Host.Outcome State Fault Refusal → List Event
  | .next t => t.out
  | _ => []

theorem test_disasm_inverted_range : eventsOf (step (requested 0 [] (.requestDisasm 0x7E00 0x0500))) =
    [.report .rangeError (.range 0x7E00 0x0500)] := by decide
theorem test_disasm_outside_window : eventsOf (step (requested 0 [] (.requestDisasm 0x0500 0x7E00))) =
    [.report .boundsError (.bounds none 0x7E00 0x0400 0x7DFF)] := by decide
theorem test_disasm_opens : eventsOf (step (requested 0x3000 [0x39] (.requestDisasm 0x3000 0x3000))) =
    [.org 0x3000] := by decide

/-- A driver run whose decode stands at 0x3000. -/
def disassembling (stop : Addr) (bs : List Byte) : State :=
  { State.reset with
    opmode := .disasm, mem := placeBytes bs 0x3000 [], drv := ⟨0x3000, stop, 0x3000⟩
    dec := { State.reset.dec with da := 0x3000 } }

/-- `B6 12 34` with END = 0x3001: the decode reads past END. -/
theorem test_disasm_reads_past_end : eventsOf (step (disassembling 0x3001 [0xB6, 0x12, 0x34])) =
    [.instr ⟨0x3000, 3, "ldaa", "$1234", true⟩ [0xB6, 0x12, 0x34], .endMark 0x3001] := by decide
/-- `39`, then more: CUR advances by one byte. -/
theorem test_disasm_advances_after_null : (match step (disassembling 0x3005 [0x39]) with
    | .next t => (t.opmode, t.drv.cur, t.dec.da) | _ => (.idle, 0, 0)) = (.disasm, 0x3001, 0x3001) := by decide

/-! ### One step of the loader (section 2.8, instance T) -/

/-- A load whose window holds `w` and whose stream holds the characters of `text`. -/
def loading (w : Window) (text : List StreamItem) : State :=
  { startLoad State.reset with
    inp := text, ldr := { (startLoad State.reset).ldr with w := w, phase := .scan } }

/-- The buffered variant of R199. -/
def bufferedLine (s : State) : State := { s with cfg := { s.cfg with lineCommit := .buffered } }

/-- The characters of a string. -/
def chars (text : String) : List StreamItem := text.toList.map fun c => .char (BitVec.ofNat 8 c.toNat)

/-- `S1071000`. -/
def windowV1 : Window := ⟨0x53, 0x31, 0x30, 0x37, 0x31, 0x30, 0x30, 0x30⟩
/-- `S1041000`. -/
def windowV4 : Window := ⟨0x53, 0x31, 0x30, 0x34, 0x31, 0x30, 0x30, 0x30⟩
/-- `S1040FFF`. -/
def windowV7 : Window := ⟨0x53, 0x31, 0x30, 0x34, 0x30, 0x46, 0x46, 0x46⟩
/-- `S9030000`. -/
def windowS9 : Window := ⟨0x53, 0x39, 0x30, 0x33, 0x30, 0x30, 0x30, 0x30⟩

/-- A load with buffered writes to make, of a record at 0x1000. -/
def inCommit (buf : List (Addr × Byte)) : State :=
  let s := bufferedLine (loading windowV4 [])
  { s with ldr := { s.ldr with n := 4, la := 0x1000, lineBuf := buf, phase := .commit } }

/-- Memory, events and the number of characters left. -/
def loadedOf : Host.Outcome State Fault Refusal → Memory × List Event × Nat
  | .next t => (t.mem, t.out, t.inp.length)
  | _ => ([], [], 0)

/-- V1: `S1071000862A971091` loads four bytes. -/
theorem test_s1 : loadedOf (step (loading windowV1 (chars "862A971091"))) =
    ([(0x1000, 0x86), (0x1001, 0x2A), (0x1002, 0x97), (0x1003, 0x10)], [.progress], 0) := by decide
/-- V4: the zero checksum is always rejected, after the byte is written. -/
theorem test_s1_zero_checksum : loadedOf (step (loading windowV4 (chars "EB00S9"))) =
    ([(0x1000, 0xEB)], [.report .checksumError (.checksum 1 0x00 0x00)], 2) := by decide
/-- V7: the load window. -/
theorem test_load_window : loadedOf (step (loading windowV7 (chars "01EC"))) =
    ([], [.report .boundsError (.bounds (some 1) 0x0FFF 0x1000 0x6FFF)], 4) := by decide
/-- V11: end of stream in the record. -/
theorem test_record_end_of_stream : loadedOf (step (loading windowV1 (chars "862A" ++ [.eos]))) =
    ([(0x1000, 0x86), (0x1001, 0x2A)], [.report .streamEndError (.streamEnd 1)], 0) := by decide
/-- V21: V3's record, buffered. -/
theorem test_record_buffered : loadedOf (step
    (let s := loading windowV1 (chars "862A971001"); { s with cfg := { s.cfg with lineCommit := .buffered } })) =
    ([], [.report .checksumError (.checksum 1 0x91 0x01)], 0) := by decide
/-- R199: an accepted buffered record has not written yet. -/
theorem test_record_buffered_accepted : loadedOf (step (bufferedLine (loading windowV1 (chars "862A971091")))) =
    ([], [], 0) := by decide
/-- R199: the oldest of the buffered writes, then one past MAX, then none left. -/
theorem test_buffered_write : loadedOf (step (inCommit [(0x1000, 0x86), (0x1001, 0x2A)])) =
    ([(0x1000, 0x86)], [], 0) := by decide
theorem test_buffered_write_past_max : loadedOf (step (inCommit [(0x7E00, 0x86), (0x1001, 0x2A)])) =
    ([], [.report .boundsError (.bounds (some 1) 0x7E00 0x0400 0x7DFF)], 0) := by decide
theorem test_buffered_done : loadedOf (step (inCommit [])) = ([], [.progress], 0) := by decide
/-- V22: a character that is no hex digit. -/
theorem test_record_format : loadedOf (step (loading windowV4 (chars "0G00"))) =
    ([], [.report .formatError (.format 1)], 2) := by decide
/-- V28, instance U: the write past MAX. -/
theorem test_record_past_max : loadedOf (step
    (let s := loading ⟨0x53, 0x31, 0x30, 0x35, 0x37, 0x44, 0x46, 0x46⟩ (chars "AABB19")
     { s with cfg := { s.cfg with lfMax := 0x7DFF } })) =
    ([(0x7DFF, 0xAA)], [.report .boundsError (.bounds (some 1) 0x7E00 0x0400 0x7DFF)], 2) := by decide
/-- V13: `S9030000FC`. -/
theorem test_s9 : loadedOf (step (loading windowS9 (chars "FC"))) = ([], [.summary none 0], 2) := by decide

/-! ### The host -/

theorem test_reset_waits : step State.reset = .next State.reset := rfl
theorem test_fetch_word_runs_ldaa : resultOf (step (State.reset.withFetchWord 8 0x86)) =
    some (2, "ldaa", "#$00", true) := by decide
theorem test_fetch_word_runs_s9 : eventsOf (step (State.reset.withFetchWord 16 0x5339)) = [.summary none 0] := by decide


/-! ### States that meet the hypotheses of the statements -/

/-- A machine with its host about to make these moves. -/
def withHost (s : State) (moves : List HostMove) : State := { s with host := moves }

/-- A stand-alone decode at an address with `k` escapes skipped, nothing in memory. -/
def decodingAt (a : Addr) (k : Nat) (pb : Byte) : State :=
  { State.reset with opmode := .decode, dec := { State.reset.dec with da := a, k := k, pb := pb } }

/-- Instance U of 92_eei_decisions.md D6: the load window reaches MAX. -/
def instanceU (s : State) : State := { s with cfg := { s.cfg with lfMax := 0x7DFF } }

/-- A load in the data of a record of one byte at 0x1000: `left` pairs to go. -/
def inData (left : Nat) (hi : Option Byte) (wc : Addr) (text : List StreamItem) : State :=
  let s := loading windowV4 text
  { s with ldr := { s.ldr with n := 4, la := 0x1000, first := some 0x1000, wc := wc, phase := .data left hi } }

/-- A load at the checksum of that record. -/
def inCheck (hi : Option Byte) (text : List StreamItem) : State :=
  let s := inData 1 none 0x1001 text
  { s with ldr := { s.ldr with phase := .check hi } }

/-- A load that fills its window, `taken` characters in it. -/
def filling (taken : Fin 8) (text : List StreamItem) : State := { startLoad State.reset with
  inp := text, ldr := { (startLoad State.reset).ldr with phase := .fill taken } }

/-- `S0030000`, no record. -/
def windowS0 : Window := ⟨0x53, 0x30, 0x30, 0x33, 0x30, 0x30, 0x30, 0x30⟩

/-- The operation ended in this step, with this return. -/
def EndsWith (s : State) (r : Returned) : Prop := ∃ t, step s = .next t ∧ t.opmode = .idle ∧ t.ret = r

theorem witness_LoadAccumulatorRowsDecode : SpecDecode (decoding 0 0x00 [0x86, 0x2A]) := ⟨rfl, rfl⟩
theorem witness_LoadSixteenBitRowsDecode : SpecDecode (decoding 0 0x00 [0xCC, 0x00, 0x12]) := ⟨rfl, rfl⟩
theorem witness_LoadIndexRowsDecode_x : SpecDecode (decoding 0 0x00 [0xEE, 0x03]) ∧
    (decoding 0 0x00 [0xEE, 0x03]).dec.pb = 0x00 := ⟨⟨rfl, rfl⟩, rfl⟩
theorem witness_LoadIndexRowsDecode_x_CD : SpecDecode (decoding 1 0xCD [0xEE, 0x03]) ∧
    (decoding 1 0xCD [0xEE, 0x03]).dec.pb = 0xCD := ⟨⟨rfl, rfl⟩, rfl⟩
theorem witness_LoadIndexRowsDecode_y : SpecDecode (decoding 1 0x18 [0xEE, 0x03]) ∧
    (decoding 1 0x18 [0xEE, 0x03]).dec.pb = 0x18 := ⟨⟨rfl, rfl⟩, rfl⟩
theorem witness_BareLoadRowsDecode_other : SpecDecode (decoding 1 0x1A [0xEE, 0x03]) ∧
    (decoding 1 0x1A [0xEE, 0x03]).dec.pb ≠ 0x00 ∧ (decoding 1 0x1A [0xEE, 0x03]).dec.pb ≠ 0xCD ∧
    (decoding 1 0x1A [0xEE, 0x03]).dec.pb ≠ 0x18 := ⟨⟨rfl, rfl⟩, by decide⟩
theorem witness_BareLoadRowsDecode : SpecDecode (decoding 0 0x00 [0x84, 0x0F]) := ⟨rfl, rfl⟩
theorem witness_StoreAccumulatorRowsDecode : SpecDecode (decoding 0 0x00 [0xB7, 0x10, 0x00]) := ⟨rfl, rfl⟩
theorem witness_StoreSixteenBitRowsDecode : SpecDecode (decoding 0 0x00 [0xED, 0x01]) ∧ Mode.idx ≠ .imm :=
  ⟨⟨rfl, rfl⟩, by decide⟩
theorem witness_StoreIndexRowsDecode_x : SpecDecode (decoding 1 0xCD [0xEF, 0x07]) ∧
    (decoding 1 0xCD [0xEF, 0x07]).dec.pb = 0xCD := ⟨⟨rfl, rfl⟩, rfl⟩
theorem witness_StoreIndexRowsDecode_y : SpecDecode (decoding 1 0x18 [0xDF, 0x41]) ∧
    (decoding 1 0x18 [0xDF, 0x41]).dec.pb = 0x18 := ⟨⟨rfl, rfl⟩, rfl⟩
theorem witness_BareStoreRowsDecode_other : SpecDecode (decoding 1 0x1A [0xEF, 0x08]) ∧
    (decoding 1 0x1A [0xEF, 0x08]).dec.pb ≠ 0x00 ∧ (decoding 1 0x1A [0xEF, 0x08]).dec.pb ≠ 0xCD ∧
    (decoding 1 0x1A [0xEF, 0x08]).dec.pb ≠ 0x18 := ⟨⟨rfl, rfl⟩, by decide⟩
theorem witness_BareStoreRowsDecode : SpecDecode (decoding 0 0x00 [0x95, 0x01]) := ⟨rfl, rfl⟩
theorem witness_SubtractRowsDecode : SpecDecode (decoding 0 0x00 [0x83, 0x00, 0x01]) := ⟨rfl, rfl⟩
theorem witness_BareSubtractRowsDecode : SpecDecode (decoding 0 0x00 [0x82, 0x11]) := ⟨rfl, rfl⟩
theorem witness_AddEightBitRowsDecode : SpecDecode (decoding 0 0x00 [0xAB, 0x05]) := ⟨rfl, rfl⟩
theorem witness_AddSixteenBitAndBareRowsDecode : SpecDecode (decoding 0 0x00 [0xC3, 0x01, 0x00]) := ⟨rfl, rfl⟩
/-- The rows' reads: both operand addresses inside the window, the first one the last inside, and both outside. -/
theorem witness_rows_at_the_window_edge :
    (SpecDecode (decodingAt 0x7DFD 0 0) ∧ inWindow resetConfig (cursor (decodingAt 0x7DFD 0 0) + 2) = true) ∧
    (SpecDecode (decodingAt 0x7DFE 0 0) ∧ inWindow resetConfig (cursor (decodingAt 0x7DFE 0 0) + 1) = true ∧
      inWindow resetConfig (cursor (decodingAt 0x7DFE 0 0) + 2) = false) ∧
    (SpecDecode (decodingAt 0xFFFF 0 0) ∧ inWindow resetConfig (cursor (decodingAt 0xFFFF 0 0) + 1) = false) :=
  ⟨⟨⟨rfl, rfl⟩, by decide⟩, ⟨⟨rfl, rfl⟩, by decide⟩, ⟨⟨rfl, rfl⟩, by decide⟩⟩

theorem witness_EscapeIsRememberedAndSkipped :
    (decoding 0 0x00 [0x18]).dec.k < (decoding 0 0x00 [0x18]).cfg.escBudget ∧
    (decoding 2 0x18 [0x7A]).dec.k < (decoding 2 0x18 [0x7A]).cfg.escBudget ∧
    (0x18 : Byte) &&& 0x85 = 0x00 ∧ (0x7A : Byte) &&& 0x85 = 0x00 := by decide
theorem witness_EscapePastBudgetIsNull :
    (decoding 3 0x18 [0x00]).opmode = .decode ∧
    (decoding 3 0x18 [0x00]).cfg.escBudget ≤ (decoding 3 0x18 [0x00]).dec.k ∧ (0x00 : Byte) &&& 0x85 = 0x00 := by decide
theorem witness_NoMatchByteIsNull :
    (decoding 0 0x00 [0x7B]).opmode = .decode ∧ (0x01 : Byte) &&& 0x85 = 0x01 ∧ (0x7B : Byte) &&& 0x85 = 0x01 ∧
    (0x04 : Byte) &&& 0x85 = 0x04 ∧ (0x7E : Byte) &&& 0x85 = 0x04 ∧ (0x05 : Byte) &&& 0x85 = 0x05 ∧
    (0x7F : Byte) &&& 0x85 = 0x05 := by decide
theorem witness_ExecRunsEveryEncodableInstruction :
    (Instr.std .dir).wf = true ∧ (Instr.esc 0x7A).wf = true ∧ (Instr.null05 0x7F).wf = true ∧
    (Instr.std .imm).wf = false ∧ (Instr.null01 0x04).wf = false := by decide

/-- The bounds at both ends: 2 bytes with no escape, 6 with three, and the NULLs of 1 and 4. -/
theorem witness_ConsumedBytesWithinBounds_valid :
    (∃ t, exec (.ldaa .imm) (decoding 0 0x00 [0x86, 0x2A]) = .next t ∧ t.opmode = .idle ∧
      t.dec.result.valid = true ∧ t.dec.result.consumedBytes = 2) ∧
    (∃ t, exec (.ldaa .ext) (decoding 3 0x18 [0xB6, 0x12, 0x34]) = .next t ∧ t.opmode = .idle ∧
      t.dec.result.valid = true ∧ t.dec.result.consumedBytes = 6) :=
  ⟨⟨_, rfl, by decide⟩, ⟨_, rfl, by decide⟩⟩
theorem witness_ConsumedBytesWithinBounds_null :
    (∃ t, exec (.null01 0x39) (decoding 0 0x00 [0x39]) = .next t ∧ t.opmode = .idle ∧
      t.dec.result.valid = false ∧ t.dec.result.consumedBytes = 1) ∧
    (∃ t, exec .escCD (decoding 3 0x18 [0xCD]) = .next t ∧ t.opmode = .idle ∧
      t.dec.result.valid = false ∧ t.dec.result.consumedBytes = 4) :=
  ⟨⟨_, rfl, by decide⟩, ⟨_, rfl, by decide⟩⟩
theorem witness_DecodeReadsOnlyConsumedBytes :
    ∃ t, exec (.ldaa .imm) (decoding 0 0x00 [0x86, 0x2A, 0x11]) = .next t ∧ t.opmode = .idle ∧
      ∀ j, 1 ≤ j → 0 + 1 + j ≤ t.dec.result.consumedBytes →
        Memory.read (placeBytes [0x86, 0x2A, 0x77] 0x2000 []) ((0x2000 : Addr) + BitVec.ofNat 16 j).toNat =
          Memory.read (decoding 0 0x00 [0x86, 0x2A, 0x11]).mem ((0x2000 : Addr) + BitVec.ofNat 16 j).toNat := by
  refine ⟨_, rfl, by decide, fun j h1 h2 => ?_⟩
  have h3 : 0 + 1 + j ≤ 2 := h2
  obtain rfl : j = 1 := by omega
  decide
theorem witness_DecodeRunsToCompletion :
    (decoding 0 0x00 [0x86]).opmode = .decode ∧ (decoding 0 0x00 [0x86]).host = [] ∧
    (decoding 3 0x00 [0x86]).dec.k ≤ (decoding 3 0x00 [0x86]).cfg.escBudget := by decide

theorem witness_OpcodeEncodingRoundTrips :
    (Instr.ldx .imm).wfAt 0x00 = true ∧ (Instr.stx .idx).wfAt 0xCD = true ∧ (Instr.ldy .ext).wfAt 0x18 = true ∧
    (Instr.stCF .dir).wfAt 0x1A = true ∧ (Instr.std .ext).wfAt 0x00 = true ∧ (Instr.null04 0x7E).wfAt 0x18 = true ∧
    (Instr.ldx .imm).isRecord = false := by decide
theorem witness_RecordEncodingRoundTrips : (Instr.s1 0x30 0x34 0x31 0x30 0x30 0x30).isRecord = true := by decide
theorem witness_WindowHoldsRecordOrIsRejected :
    windowV1.c0 = 0x53 ∧ windowV1.c1 = 0x31 ∧ windowS9.c0 = 0x53 ∧ windowS9.c1 = 0x39 ∧
    windowS0.c1 ≠ 0x31 ∧ windowS0.c1 ≠ 0x39 := by decide
theorem witness_SuffixTableRowsHold :
    resetConfig.suffixTable = specSuffixTable ∧
    ((0x1A : Byte) ≠ 0x00 ∧ (0x1A : Byte) ≠ 0xCD ∧ (0x1A : Byte) ≠ 0x18) ∧
    ((0x02 : Byte) ≠ 0x00 ∧ (0x02 : Byte) ≠ 0x1A ∧ (0x02 : Byte) ≠ 0x18 ∧ (0x02 : Byte) ≠ 0xCD) := by decide

theorem witness_StepRunsTheOpcodeAtTheCursor_inside :
    (decoding 0 0x00 [0x86]).opmode = .decode ∧ (disassembling 0x3001 [0x39]).opmode = .disasm ∧
    inWindow resetConfig (cursor (decoding 0 0x00 [0x86])) = true ∧
    decode (.opcode 0x00) [Memory.read (decoding 0 0x00 [0x86]).mem (cursor (decoding 0 0x00 [0x86])).toNat] =
      .ok (.ldaa .imm, []) ∧
    (decoding 0 0x00 [0x86]).host = [] ∧ (withHost (decoding 0 0x00 [0x86]) [.stay]).host = .stay :: [] := by decide
theorem witness_StepRunsTheOpcodeAtTheCursor_outside :
    (inWindow resetConfig (cursor (decodingAt 0x7E00 0 0)) = false ∧
      inWindow resetConfig (cursor (decodingAt 0x03FF 0 0)) = false) ∧
    ∃ i, decode (.opcode 0x00) [Config.outsideRead 0 (cursor (decodingAt 0x7E00 0 0))] = .ok (i, []) :=
  ⟨by decide, _, rfl⟩
theorem witness_StepRunsTheRecordInTheWindow :
    (loading windowV1 []).opmode = .load ∧ (loading windowV1 []).ldr.phase = .scan ∧
    (loading windowV1 []).host = [] ∧ (withHost (loading windowV1 []) [.stay]).host = .stay :: [] :=
  ⟨rfl, rfl, rfl, rfl⟩
theorem witness_StepRunsTheRecordInTheWindow_window :
    decodeWindow (loading windowV1 []).ldr.w = .ok (.s1 0x30 0x37 0x31 0x30 0x30 0x30) := rfl

/-- The invariant of a state in which no operation, or a decode, a driver run or a load stands. -/
theorem inv_of_decide (s : State) (h1 : s.cfg.Admissible) (h2 : s.cfg.max.toNat + 252 < 65536) (h3 : s.mem.wf = true)
    (h4 : MemInWindow s) (h5 : s.dec.k ≤ s.cfg.escBudget)
    (h6 : 1 ≤ s.dec.result.consumedBytes ∧ s.dec.result.consumedBytes ≤ maxConsumed s.cfg)
    (h7 : s.opmode = .disasm → s.drv.cur ≤ s.drv.stop.toNat ∧ s.dec.da = BitVec.ofNat 16 s.drv.cur)
    (h8 : s.opmode = .load → 1 ≤ s.ldr.line) (h9 : CursorMatches s.ldr) (h10 : InRecord s.cfg s.ldr)
    (h11 : StreamItem.char 0x0D ∉ s.inp) : Inv s :=
  ⟨h1, h2, h3, h4, h5, h6, h7, h8, fun _ => h9, fun _ => h10, h11⟩

theorem witness_Inv_decode : Inv (decoding 3 0x18 [0xB6, 0x12, 0x34]) :=
  inv_of_decide _ (by decide) (by decide) (by decide) (by unfold MemInWindow; decide) (by decide) (by decide)
    (by decide) (by decide) trivial trivial (by decide)
theorem witness_Inv_disasm : Inv (disassembling 0x3001 [0xB6, 0x12, 0x34]) :=
  inv_of_decide _ (by decide) (by decide) (by decide) (by unfold MemInWindow; decide) (by decide) (by decide)
    (by decide) (by decide) trivial trivial (by decide)
theorem witness_Inv_record : Inv (loading windowV1 (chars "862A971091")) :=
  inv_of_decide _ (by decide) (by decide) (by decide) (by unfold MemInWindow; decide) (by decide) (by decide)
    (by decide) (by decide) trivial trivial (by decide)
theorem witness_Inv_data : Inv (inData 1 none 0x1000 (chars "EB")) :=
  inv_of_decide _ (by decide) (by decide) (by decide) (by unfold MemInWindow; decide) (by decide) (by decide)
    (by decide) (by decide) (show 1 ≤ 1 ∧ 1 ≤ _ ∧ _ from by decide)
    (show _ ∧ _ ∧ _ from ⟨by decide, by decide, by intro p hp; cases hp⟩) (by decide)
theorem witness_Inv_commit : Inv (inCommit [(0x1000, 0x86)]) :=
  inv_of_decide _ (by decide) (by decide) (by decide) (by unfold MemInWindow; decide) (by decide) (by decide)
    (by decide) (by decide) trivial
    (show _ ∧ _ ∧ _ from ⟨by decide, by decide, by intro p hp; fin_cases hp; decide⟩) (by decide)
theorem witness_EveryStepKeepsInvariant :
    (∃ t, step (decoding 3 0x18 [0xB6, 0x12, 0x34]) = .next t) ∧ (∃ t, step (disassembling 0x3001 [0xB6, 0x12, 0x34]) = .next t) ∧
    (∃ t, step (loading windowV1 (chars "862A971091")) = .next t) ∧ (∃ t, step (inData 1 none 0x1000 (chars "EB")) = .next t) :=
  ⟨⟨_, rfl⟩, ⟨_, rfl⟩, ⟨_, rfl⟩, ⟨_, rfl⟩⟩
theorem witness_ConfigurationNeverChanges : ∃ t, step (decoding 0 0x00 [0x86]) = .next t := ⟨_, rfl⟩
theorem witness_OnlyLoadAndHostWriteMemory :
    (∃ t, step (decoding 0 0x00 [0x86]) = .next t) ∧ (∃ t, step (loading windowV1 (chars "86")) = .next t) ∧
    (∃ t, step (requested 0 [] (.writeByte 0x0400 0x12)) = .next t) := ⟨⟨_, rfl⟩, ⟨_, rfl⟩, ⟨_, rfl⟩⟩

theorem witness_OperationModeChangesOnlyAtEnds_starts :
    (∃ t, step (requested 0 [] (.requestDecode 0x2000)) = .next t ∧ t.opmode ≠ .idle) ∧
    (∃ t, step (requested 0 [] (.requestDisasm 0x2000 0x2000)) = .next t ∧ t.opmode ≠ .idle) ∧
    (∃ t, step (requested 0 [] .requestLoad) = .next t ∧ t.opmode ≠ .idle) :=
  ⟨⟨_, rfl, by decide⟩, ⟨_, rfl, by decide⟩, ⟨_, rfl, by decide⟩⟩
theorem witness_OperationModeChangesOnlyAtEnds_ends :
    (∃ t, step (withHost (decoding 0 0x00 [0x39]) [.reset]) = .next t ∧ t.opmode = .idle) ∧
    EndsWith (decoding 0 0x00 [0x39]) (.decoded ⟨0x2000, 1, "NULL", "", false⟩) ∧
    EndsWith (disassembling 0x3000 [0x39]) .disasmOk ∧ EndsWith (loading windowS9 []) (.loadOk none 0) ∧
    EndsWith (loading windowV7 []) (.err .boundsError (.bounds (some 1) 0x0FFF 0x1000 0x6FFF)) :=
  ⟨⟨_, rfl, by decide⟩, ⟨_, rfl, by decide⟩, ⟨_, rfl, by decide⟩, ⟨_, rfl, by decide⟩, ⟨_, rfl, by decide⟩⟩
theorem witness_AnErrorIsReportedOnce :
    (loading windowV4 (chars "EB00")).opmode ≠ .idle ∧
    EndsWith (loading windowV4 (chars "EB00")) (.err .checksumError (.checksum 1 0x00 0x00)) ∧
    EndsWith (inData 1 none 0x1000 [.eos]) (.err .streamEndError (.streamEnd 1)) :=
  ⟨by decide, ⟨_, rfl, by decide⟩, ⟨_, rfl, by decide⟩⟩

theorem witness_ResetKeepsMemoryAndConfiguration :
    (requested 0x2000 [0x86] .reset).host = .reset :: [] ∧
    (withHost (inData 1 none 0x1000 []) [.reset]).host = .reset :: [] := by decide
theorem witness_RequestsInitialiseTheirRegisters :
    (requested 0 [] (.requestDecode 0xFFFF)).opmode = .idle ∧
    (requested 0 [] (.requestDecode 0xFFFF)).host = .requestDecode 0xFFFF :: [] ∧
    (requested 0 [] .requestLoad).host = .requestLoad :: [] := by decide
theorem witness_TheBlockWaitsForTheHost :
    (State.reset.opmode = .idle ∧ State.reset.host = []) ∧
    NeedsChar (filling 0 []) ∧ NeedsChar (filling 7 []) ∧ NeedsChar (loading windowS0 []) ∧
    NeedsChar (inData 1 none 0x1000 []) ∧ NeedsChar (inCheck (some 0x45) []) ∧
    NeedsChar (withHost (filling 0 []) [.requestDecode 0x2000]) ∧
    NeedsChar (withHost (filling 0 []) [.writeByte 0x2000 0x00]) :=
  ⟨⟨rfl, rfl⟩, ⟨rfl, nofun, nofun⟩, ⟨rfl, nofun, nofun⟩, ⟨rfl, nofun, fun _ => rfl⟩, ⟨rfl, nofun, nofun⟩,
    ⟨rfl, nofun, nofun⟩, ⟨rfl, nofun, nofun⟩, ⟨rfl, nofun, nofun⟩⟩
theorem witness_HostWritesAndDelivers :
    (requested 0 [] (.writeByte 0x7DFF 0x12)).opmode = .idle ∧
    (requested 0 [] (.writeByte 0x7DFF 0x12)).host = .writeByte 0x7DFF 0x12 :: [] ∧
    inWindow resetConfig 0x7DFF = true ∧ inWindow resetConfig 0x0400 = true ∧ State.reset.mem.wf = true ∧
    (requested 0 [] (.deliver 0x53)).host = .deliver 0x53 :: [] ∧ (0x53 : Byte) ≠ 0x0D ∧
    (requested 0 [] (.deliver 0x0D)).host = .deliver 0x0D :: [] ∧
    (requested 0 [] .endStream).host = .endStream :: [] := by decide
theorem witness_MemoryReadsAndWrites :
    (decoding 0 0x00 [0x86, 0x2A]).mem.wf = true ∧ inWindow resetConfig 0x0400 = true ∧ inWindow resetConfig 0x7DFF = true ∧
    inWindow resetConfig 0x03FF = false ∧ inWindow resetConfig 0x7E00 = false := by decide

theorem witness_DisasmRejectsInvertedRange :
    (requested 0 [] (.requestDisasm 0x0501 0x0500)).opmode = .idle ∧
    (requested 0 [] (.requestDisasm 0x0501 0x0500)).host = .requestDisasm 0x0501 0x0500 :: [] ∧
    (0x0501 : Addr) > 0x0500 := by decide
theorem witness_DisasmRejectsAddressOutsideWindow :
    (requested 0 [] (.requestDisasm 0x03FF 0x7E00)).host = .requestDisasm 0x03FF 0x7E00 :: [] ∧
    (0x03FF : Addr) ≤ 0x7E00 ∧ resetConfig.driverWindowCheck = true ∧ inWindow resetConfig 0x03FF = false ∧
    (requested 0 [] (.requestDisasm 0x0400 0x7E00)).host = .requestDisasm 0x0400 0x7E00 :: [] ∧
    (0x0400 : Addr) ≤ 0x7E00 ∧ inWindow resetConfig 0x0400 = true ∧ inWindow resetConfig 0x7E00 = false := by decide
theorem witness_DisasmOpensWithOrg :
    (requested 0 [] (.requestDisasm 0x7DFF 0x7DFF)).host = .requestDisasm 0x7DFF 0x7DFF :: [] ∧
    (0x7DFF : Addr) ≤ 0x7DFF ∧ inWindow resetConfig 0x7DFF = true ∧
    ({ requested 0 [] (.requestDisasm 0x0000 0xFFFF) with
      cfg := { resetConfig with driverWindowCheck := false } } : State).cfg.driverWindowCheck = false := by decide
/-- A decode that ends the run, and one after which the run goes on. -/
theorem witness_DriverAdvancesByConsumedBytes :
    (∃ u, exec (.ldaa .ext) { disassembling 0x3001 [0xB6, 0x12, 0x34] with opmode := .decode } = .next u ∧
      u.opmode = .idle ∧ ¬ 0x3000 + u.dec.result.consumedBytes ≤ (0x3001 : Addr).toNat) ∧
    (∃ u, exec (.null01 0x39) { disassembling 0x3001 [0x39] with opmode := .decode } = .next u ∧
      u.opmode = .idle ∧ 0x3000 + u.dec.result.consumedBytes ≤ (0x3001 : Addr).toNat) :=
  ⟨⟨_, rfl, by decide⟩, ⟨_, rfl, by decide⟩⟩
theorem witness_DisasmTerminates : Inv (disassembling 0x3001 [0xB6, 0x12, 0x34]) ∧
    (disassembling 0x3001 [0xB6, 0x12, 0x34]).opmode = .disasm ∧ (disassembling 0x3001 [0xB6, 0x12, 0x34]).host = [] :=
  ⟨witness_Inv_disasm, rfl, rfl⟩

theorem witness_HexDigitsAndPairs :
    hexVal 0x30 = some 0 ∧ hexVal 0x39 = some 9 ∧ hexVal 0x41 = some 10 ∧ hexVal 0x46 = some 15 ∧ hexVal 0x2F = none ∧
    hexVal 0x3A = none ∧ hexVal 0x40 = none ∧ hexVal 0x47 = none ∧ hexVal 0x61 = none := by decide
theorem witness_WindowIsFilledInOrder :
    (filling 0 (chars "S1071000")).opmode = .load ∧ (filling 0 (chars "S1071000")).host = [] ∧
    (filling 0 (chars "S1071000")).ldr.phase = .fill 0 ∧
    (filling 0 (chars "S1071000")).inp = [.char 0x53, .char 0x31, .char 0x30, .char 0x37, .char 0x31, .char 0x30,
      .char 0x30, .char 0x30] ++ [] := by decide
theorem witness_ScanSlidesByOneCharacter :
    (loading windowS0 (chars "S1")).opmode = .load ∧ (loading windowS0 (chars "S1")).host = [] ∧
    (loading windowS0 (chars "S1")).ldr.phase = .scan ∧
    (loading windowS0 (chars "S1")).inp = .char 0x53 :: [.char 0x31] := by decide
theorem witness_ScanSlidesByOneCharacter_window : decodeWindow windowS0 = .error .notARecord := rfl
theorem witness_EndOfStreamEndsTheLoad :
    NeedsChar (filling 7 [.eos]) ∧ NeedsChar (loading windowS0 [.eos]) ∧ NeedsChar (inData 1 (some 0x45) 0x1000 [.eos]) ∧
    NeedsChar (inCheck none [.eos]) ∧ (inCheck none [.eos]).host = [] ∧ (inCheck none [.eos]).inp = .eos :: [] :=
  ⟨⟨rfl, nofun, nofun⟩, ⟨rfl, nofun, fun _ => rfl⟩, ⟨rfl, nofun, nofun⟩, ⟨rfl, nofun, nofun⟩, rfl, rfl⟩
theorem witness_BadHeaderIsFormatError :
    hexPair 0x67 0x30 = none ∧ hexPair 0x30 0x47 = none ∧ hexPair 0x0A 0x0A = none := by decide
theorem witness_BadPairInRecordIsFormatError :
    (inData 1 none 0x1000 (chars "0G")).opmode = .load ∧ (inData 1 none 0x1000 (chars "0G")).host = [] ∧
    hexPair 0x30 0x47 = none ∧ (inData 1 none 0x1000 (chars "0G")).inp = .char 0x30 :: .char 0x47 :: [] ∧
    (inData 1 none 0x1000 (chars "0G")).ldr.phase = .data 1 none ∧ (inCheck none (chars "0G")).ldr.phase = .check none ∧
    (inCheck none (chars "0G")).inp = .char 0x30 :: .char 0x47 :: [] := by decide
theorem witness_AddressOutsideLoadWindowIsBoundsError :
    inLoadWindow resetConfig (wordOf 0x0F 0xFF) = false ∧ inLoadWindow resetConfig (wordOf 0x70 0x00) = false := by decide

/-- V1's record, under either commit. -/
theorem witness_CorrectRecordIsLoaded :
    let s := loading windowV1 (chars "862A971091")
    s.mem.wf = true ∧ s.cfg.Admissible ∧ (bufferedLine s).cfg.Admissible ∧ inLoadWindow s.cfg (wordOf 0x10 0x00) = true ∧
    [0x86, 0x2A, 0x97, 0x10].length = (0x07 : Byte).toNat - 3 ∧
    (wordOf 0x10 0x00).toNat + [0x86, 0x2A, 0x97, 0x10].length ≤ s.cfg.max.toNat + 1 ∧
    0x91 = ~~~ recordSum 0x07 0x10 0x00 [0x86, 0x2A, 0x97, 0x10] ∧ (0x91 : Byte) ≠ 0x00 ∧
    s.inp = pairsOf [0x86, 0x2A, 0x97, 0x10] ++ pairsOf [0x91] ++ [] := by decide
/-- `S1031000EC` has no data, and a record of two bytes ends at MAX (instance U). -/
theorem witness_CorrectRecordIsLoaded_edges :
    (([] : List Byte).length = (0x03 : Byte).toNat - 3 ∧ 0xEC = ~~~ recordSum 0x03 0x10 0x00 [] ∧
      (loading windowV1 (chars "EC")).inp = pairsOf [] ++ pairsOf [0xEC] ++ []) ∧
    (([] : List Byte).length = (0x00 : Byte).toNat - 3 ∧ 0xEF = ~~~ recordSum 0x00 0x10 0x00 []) ∧
    ((instanceU State.reset).cfg.Admissible ∧ inLoadWindow (instanceU State.reset).cfg (wordOf 0x7D 0xFE) = true ∧
      [0xAA, 0xBB].length = (0x05 : Byte).toNat - 3 ∧ (wordOf 0x7D 0xFE).toNat + 2 ≤ resetConfig.max.toNat + 1 ∧
      0x1A = ~~~ recordSum 0x05 0x7D 0xFE [0xAA, 0xBB]) := by decide
/-- V1's record buffered, in a load that the host leaves alone. -/
theorem witness_CorrectRecordIsLoaded_buffered :
    let s := bufferedLine (loading windowV1 (chars "862A971091"))
    s.cfg.lineCommit = .buffered ∧ s.opmode = .load ∧ s.host = [] ∧ inLoadWindow s.cfg (wordOf 0x10 0x00) = true ∧
    4 ≤ [(0x86 : Byte), 0x2A, 0x97, 0x10].length ∧
    s.inp = pairsOf [0x86, 0x2A, 0x97, 0x10] ++ pairsOf [0x91] ++ [] := by decide
/-- V4 (the zero checksum that matches) and V3 (a wrong one), under either commit. -/
theorem witness_WrongOrZeroChecksumEndsTheLoad :
    let s := loading windowV4 (chars "EB00S9")
    s.mem.wf = true ∧ s.cfg.Admissible ∧ (bufferedLine s).cfg.Admissible ∧ inLoadWindow s.cfg (wordOf 0x10 0x00) = true ∧
    [0xEB].length = (0x04 : Byte).toNat - 3 ∧ (wordOf 0x10 0x00).toNat + [0xEB].length ≤ s.cfg.max.toNat + 1 ∧
    0x00 = ~~~ recordSum 0x04 0x10 0x00 [0xEB] ∧ 0x01 ≠ ~~~ recordSum 0x07 0x10 0x00 [0x86, 0x2A, 0x97, 0x10] ∧
    s.inp = pairsOf [0xEB] ++ pairsOf [0x00] ++ [.char 0x53, .char 0x39] := by decide
/-- Buffered, with data past MAX and a wrong checksum (V28's data, instance U). -/
theorem witness_WrongOrZeroChecksumEndsTheLoad_past_max :
    let s := bufferedLine (instanceU (loading windowV1 (chars "AABB18")))
    s.cfg.Admissible ∧ s.cfg.lineCommit = .buffered ∧ inLoadWindow s.cfg (wordOf 0x7D 0xFF) = true ∧
    [0xAA, 0xBB].length = (0x05 : Byte).toNat - 3 ∧ 0x18 ≠ ~~~ recordSum 0x05 0x7D 0xFF [0xAA, 0xBB] ∧
    s.inp = pairsOf [0xAA, 0xBB] ++ pairsOf [0x18] ++ [] ∧
    s.cfg.max.toNat + 1 < (wordOf 0x7D 0xFF).toNat + [(0xAA : Byte), 0xBB].length := by decide
/-- V28's record with its correct checksum, 0x19, buffered: the second byte again. -/
theorem witness_WritePastWindowEndsTheLoad_buffered :
    let s := bufferedLine (instanceU (loading windowV1 (chars "AABB19")))
    s.cfg.lineCommit = .buffered ∧ s.opmode = .load ∧ s.host = [] ∧
    ([0xAA] ++ 0xBB :: []).length = (0x05 : Byte).toNat - 3 ∧
    0x19 = ~~~ recordSum 0x05 0x7D 0xFF ([0xAA] ++ 0xBB :: []) ∧ (0x19 : Byte) ≠ 0x00 ∧
    s.inp = pairsOf ([0xAA] ++ 0xBB :: []) ++ pairsOf [0x19] ++ [] := by decide
/-- V28: the second byte of the record at MAX. -/
theorem witness_WritePastWindowEndsTheLoad :
    let s := instanceU (loading windowV1 (chars "AABB19"))
    s.mem.wf = true ∧ s.cfg.Admissible ∧ s.cfg.lineCommit = .writeThrough ∧ inLoadWindow s.cfg (wordOf 0x7D 0xFF) = true ∧
    [0xAA].length + 1 ≤ (0x05 : Byte).toNat - 3 ∧ s.cfg.max.toNat < 65535 ∧
    (wordOf 0x7D 0xFF).toNat + [0xAA].length = s.cfg.max.toNat + 1 ∧
    s.inp = pairsOf [0xAA] ++ pairsOf [0xBB] ++ chars "19" := by decide
/-- A first piece that leaves the load in the record, and one that ends it. -/
theorem witness_RecordInPiecesIsTheSameRecord :
    MidRecord (inData 1 none 0x1000 []) ∧ (inData 1 none 0x1000 []).host = [] ∧
    (∃ t, step { inData 1 none 0x1000 [] with inp := chars "E" } = .next t ∧ MidRecord t) ∧
    (∃ t, step { inData 1 none 0x1000 [] with inp := chars "EB0G" } = .next t ∧ ¬ MidRecord t) :=
  ⟨⟨rfl, .inl ⟨_, _, rfl⟩⟩, rfl, ⟨_, rfl, rfl, .inl ⟨_, _, rfl⟩⟩, ⟨_, rfl, nofun⟩⟩
/-- A record with no character at hand, and the same two pieces from its window on. -/
theorem witness_RecordInPiecesIsTheSameRecord_start :
    StartsRecord (loading windowV4 []) ∧ inLoadWindow resetConfig (wordOf 0x10 0x00) = true ∧
    (loading windowV4 []).inp = [] ∧
    (∃ t, step { loading windowV4 [] with inp := [] } = .next t ∧ MidRecord t) ∧
    (∃ t, step { loading windowV7 [] with inp := chars "0" } = .next t ∧ ¬ MidRecord t) :=
  ⟨⟨rfl, rfl, _, _, _, _, _, _, rfl⟩, by decide, rfl, ⟨_, rfl, rfl, .inl ⟨_, _, rfl⟩⟩, ⟨_, rfl, nofun⟩⟩
theorem witness_LoadWritesOnlyFromLoadStartToMax : Inv (inData 1 none 0x1000 (chars "EB")) ∧
    (inData 1 none 0x1000 (chars "EB")).opmode = .load ∧ (∃ t, step (inData 1 none 0x1000 (chars "EB")) = .next t) ∧
    0x0FFF < (inData 1 none 0x1000 (chars "EB")).cfg.lfStart.toNat ∧
    (inData 1 none 0x1000 (chars "EB")).cfg.max.toNat < 0x7E00 :=
  ⟨witness_Inv_data, rfl, ⟨_, rfl⟩, by decide, by decide⟩

end Sys2Proof.Machine.Tests
end

section
/-! PROOF. What one step can do, said once: an inversion relation for each operation of the block, and the lemma that ties
it to the model's function. -/

namespace Sys2Proof.Machine

/-! ### The instruction a byte decodes to -/

/-- The byte whose suffix key is 0xCD in Immediate mode is 0xCD itself, the escape (R129). -/
theorem eq_cd_of_key_mode {b : Byte} (hkey : suffixKey b = 0xCD) (hmode : modeField b = .imm) : b = 0xCD := by
  have hbits : b &&& 0x30 = 0x00 := by
    unfold modeField at hmode
    split_ifs at hmode with h
    exact h
  calc b = b &&& (0xCF ||| 0x30) := (BitVec.and_allOnes (x := b)).symm
    _ = b &&& 0xCF ||| b &&& 0x30 := BitVec.and_or_distrib_left
    _ = 0xCD := by rw [show b &&& 0xCF = 0xCD from hkey, hbits]; rfl

/-- The family field of a byte that R71 matches to no family is one of the three of R73. -/
theorem familyField_of_noMatch {b : Byte} (h : classify b = .noMatch) :
    b &&& familyMask = 0x01 ∨ b &&& familyMask = 0x04 ∨ b &&& familyMask = 0x05 := by
  revert b; decide

theorem familyField_of_escape {b : Byte} (h : classify b = .escape) (hb : b ≠ 0xCD) : b &&& familyMask = 0x00 := by
  unfold classify at h
  simp only [if_neg hb] at h
  split_ifs at h with _ _ _ _ _ hfield
  exact hfield

/-- The byte 0xCD is tested before the `st` row (R79). -/
theorem classify_cd : classify 0xCD = .escape := by decide

theorem exec_decodeLd (pb v : Byte) (m : Mode) (s : State) :
    ∃ key, exec (decodeLd pb v m) s = .next (decodeFamily .ld key m s) := by
  unfold decodeLd xyRow
  split_ifs <;> exact ⟨_, rfl⟩

theorem exec_decodeSt (pb v : Byte) (m : Mode) (s : State) (hstd : v = 0xCD → m ≠ .imm) :
    ∃ key, exec (decodeSt pb v m) s = .next (decodeFamily .st key m s) := by
  by_cases hv : v = 0xCD
  · subst hv
    exact ⟨0xCD, if_neg (hstd rfl)⟩
  · unfold decodeSt xyRow
    rw [if_neg hv]
    split_ifs <;> exact ⟨_, rfl⟩

theorem exec_decodeSub (v : Byte) (m : Mode) (s : State) :
    ∃ key, exec (decodeSub v m) s = .next (decodeFamily .sub key m s) := by
  unfold decodeSub
  split_ifs <;> exact ⟨_, rfl⟩

theorem exec_decodeAd (v : Byte) (m : Mode) (s : State) :
    ∃ key, exec (decodeAd v m) s = .next (decodeFamily .ad key m s) := by
  unfold decodeAd
  split_ifs <;> exact ⟨_, rfl⟩

/-- What running the instruction of a byte can be: a family's stages, an escape, or the NULL result (R71, R101). -/
theorem exec_decodeOpcode_cases (pb b : Byte) (s : State) :
    (∃ fam key m, exec (decodeOpcode pb b) s = .next (decodeFamily fam key m s)) ∨
    exec (decodeOpcode pb b) s = .next (decodeEscape b s) ∨ exec (decodeOpcode pb b) s = .next (decodeNull s) := by
  unfold decodeOpcode
  cases hc : classify b with
  | family fam =>
    left
    cases fam with
    | ld => exact ⟨.ld, (exec_decodeLd ..).imp fun _ e => ⟨_, e⟩⟩
    | st =>
      have hstd : suffixKey b = 0xCD → modeField b ≠ .imm := fun hkey hmode => by
        rw [eq_cd_of_key_mode hkey hmode, classify_cd] at hc
        cases hc
      exact ⟨.st, (exec_decodeSt pb _ _ s hstd).imp fun _ e => ⟨_, e⟩⟩
    | sub => exact ⟨.sub, (exec_decodeSub ..).imp fun _ e => ⟨_, e⟩⟩
    | ad => exact ⟨.ad, (exec_decodeAd ..).imp fun _ e => ⟨_, e⟩⟩
  | escape =>
    right; left
    by_cases hb : b = 0xCD
    · subst hb; rfl
    · simp only [if_neg hb]
      exact if_pos (familyField_of_escape hc hb)
  | noMatch =>
    right; right
    simp only
    split_ifs with h1 h4
    · exact if_pos h1
    · exact if_pos h4
    · exact if_pos (by have := familyField_of_noMatch hc; tauto)

/-! ### A step of a decode -/

/-- What a step of a decode can do (R101): skip an escape while the budget lasts, or end the decode at the byte after
the escapes with a result of R110's length. `n` counts the draws. -/
inductive DecodeStep (s : State) : State → Prop
  | skip (b : Byte) (n : Nat) (hbudget : s.dec.k < s.cfg.escBudget) :
      DecodeStep s { s with dec := { s.dec with pb := b, k := s.dec.k + 1 }, draws := n }
  | done (d : DecodedInstruction) (r : Dec) (n : Nat) (hda : r.da = s.dec.da) (hk : r.k = s.dec.k)
      (haddress : d.address = s.dec.da) (hlo : s.dec.k + 1 ≤ d.consumedBytes) (hhi : d.consumedBytes ≤ s.dec.k + 3) :
      DecodeStep s (finishDecode d { s with dec := r, draws := n })

/-- A step from a state that differs in the draws is a step from the state itself. -/
theorem DecodeStep.of_draws {s t : State} {n : Nat} (h : DecodeStep { s with draws := n } t) : DecodeStep s t := by
  cases h with
  | skip b n hbudget => exact .skip b n hbudget
  | done d r n hda hk haddress hlo hhi => exact .done d r n hda hk haddress hlo hhi

theorem operandCount_le (m : Mode) (is16 : Bool) : operandCount m is16 ≤ 2 := by
  unfold operandCount; split <;> omega

theorem decodeFamily_decodeStep (fam : Family) (key : Byte) (m : Mode) (s : State) :
    DecodeStep s (decodeFamily fam key m s) := by
  obtain ⟨hda, hk, -, -, -, -, hcount⟩ := familyStages_dec fam key m s
  have hle := operandCount_le m (is16Mark s.cfg (suffixKey (familyByte key m)))
  unfold decodeFamily
  rw [familyStages_state]
  refine .done _ _ _ hda hk hda ?_ ?_ <;> simp only [familyResult, validResult] <;> omega

theorem decodeNull_decodeStep (s : State) : DecodeStep s (decodeNull s) :=
  .done _ s.dec s.draws rfl rfl rfl (Nat.le_refl _) (Nat.le_add_right _ 2)

theorem decodeEscape_decodeStep (b : Byte) (s : State) : DecodeStep s (decodeEscape b s) := by
  unfold decodeEscape
  split
  · next hbudget => exact .skip b s.draws hbudget
  · exact decodeNull_decodeStep s

/-- Every step of a decode goes on, and does one of the things of `DecodeStep`. -/
theorem decodeStep_cases (s : State) : ∃ t, decodeStep s = .next t ∧ DecodeStep s t := by
  have hfetch : (fetchOpcode s).2 = { s with draws := (fetchOpcode s).2.draws } := memRead_state _ s
  unfold decodeStep
  simp only
  rw [hfetch]
  rcases exec_decodeOpcode_cases s.dec.pb (fetchOpcode s).1 { s with draws := (fetchOpcode s).2.draws } with
    ⟨fam, key, m, e⟩ | e | e
  · exact ⟨_, e, .of_draws (decodeFamily_decodeStep fam key m _)⟩
  · exact ⟨_, e, .of_draws (decodeEscape_decodeStep _ _)⟩
  · exact ⟨_, e, .of_draws (decodeNull_decodeStep _)⟩

/-! ### One character of a data record -/

/-- What one character of a data record can do (R184, R193 to R199), and whether the record takes another one. -/
inductive RecordCharStep (c : Byte) (s : State) : State × Bool → Prop
  | notInRecord (hphase : (∃ i, s.ldr.phase = .fill i) ∨ s.ldr.phase = .scan ∨ s.ldr.phase = .commit) :
      RecordCharStep c s (s, false)
  | rejected (e : Error) (r : Ldr) : RecordCharStep c s (raise e { s with ldr := r }, false)
  | dataHalf (left : Nat) (hphase : s.ldr.phase = .data left none) :
      RecordCharStep c s ({ s with ldr := { s.ldr with phase := .data left (some c) } }, true)
  | checkHalf (hphase : s.ldr.phase = .check none) :
      RecordCharStep c s ({ s with ldr := { s.ldr with phase := .check (some c) } }, true)
  | written (left : Nat) (hi d : Byte) (hphase : s.ldr.phase = .data left (some hi)) (hpair : hexPair hi c = some d)
      (hcommit : s.cfg.lineCommit = .writeThrough) (hwindow : inWindow s.cfg s.ldr.wc = true) :
      RecordCharStep c s ({ s with
        mem := s.mem.write s.ldr.wc.toNat d
        ldr := { s.ldr with
          acc := s.ldr.acc + d, written := s.ldr.written + 1, wc := s.ldr.wc + 1, phase := pairPhase (left - 1) } }, true)
  | buffered (left : Nat) (hi d : Byte) (hphase : s.ldr.phase = .data left (some hi)) (hpair : hexPair hi c = some d)
      (hcommit : s.cfg.lineCommit = .buffered) :
      RecordCharStep c s ({ s with
        ldr := { s.ldr with
          acc := s.ldr.acc + d, lineBuf := s.ldr.lineBuf ++ [(s.ldr.wc, d)], wc := s.ldr.wc + 1
          phase := pairPhase (left - 1) } }, true)
  | accepted (hi t : Byte) (hphase : s.ldr.phase = .check (some hi)) (hpair : hexPair hi c = some t)
      (hsum : ~~~ s.ldr.acc = t) (hnonzero : t ≠ 0x00) (hcommit : s.cfg.lineCommit = .writeThrough) :
      RecordCharStep c s (nextRecord { s with ldr := { s.ldr with t := t, f := t } }, false)
  | acceptedBuffered (hi t : Byte) (hphase : s.ldr.phase = .check (some hi)) (hpair : hexPair hi c = some t)
      (hsum : ~~~ s.ldr.acc = t) (hnonzero : t ≠ 0x00) (hcommit : s.cfg.lineCommit = .buffered) :
      RecordCharStep c s ({ s with ldr := { s.ldr with t := t, f := t, phase := .commit } }, false)

theorem dataPair_step (left : Nat) (hi c : Byte) (s : State) (hphase : s.ldr.phase = .data left (some hi)) :
    RecordCharStep c s (dataPair left hi c s) := by
  unfold dataPair
  split
  · next d hpair =>
    unfold dataByte
    rcases commitByte_cases d { s with ldr := { s.ldr with acc := s.ldr.acc + d } } with
      ⟨hcommit, hwindow, e⟩ | ⟨-, -, e⟩ | ⟨hcommit, e⟩ <;> simp only [e]
    · exact .written left hi d hphase hpair hcommit hwindow
    · exact .rejected _ _
    · exact .buffered left hi d hphase hpair hcommit
  · exact .rejected _ s.ldr

theorem checkPair_step (hi c : Byte) (s : State) (hphase : s.ldr.phase = .check (some hi)) :
    RecordCharStep c s (checkPair hi c s, false) := by
  unfold checkPair
  split
  · next t hpair =>
    unfold checkRecord
    simp only
    split
    · exact .rejected _ _
    · next hcheck =>
      obtain ⟨hsum, hnonzero⟩ : ~~~ s.ldr.acc = t ∧ t ≠ 0x00 := by tauto
      rw [hsum]
      unfold acceptRecord
      split
      · next hcommit => exact .accepted hi t hphase hpair hsum hnonzero hcommit
      · next hcommit => exact .acceptedBuffered hi t hphase hpair hsum hnonzero hcommit
  · exact .rejected _ s.ldr

theorem recordChar_step (c : Byte) (s : State) : RecordCharStep c s (recordChar c s) := by
  unfold recordChar
  split
  · next left hphase => exact .dataHalf left hphase
  · next left hi hphase => exact dataPair_step left hi c s hphase
  · next hphase => exact .checkHalf hphase
  · next hi hphase => exact checkPair_step hi c s hphase
  · next i hphase => exact .notInRecord (.inl ⟨i, hphase⟩)
  · next hphase => exact .notInRecord (.inr (.inl hphase))
  · next hphase => exact .notInRecord (.inr (.inr hphase))

/-! ### A step of a load -/

/-- What a step of a load can do (R182, R185 to R200). -/
inductive LoadStep (s : State) : State → Prop
  | waits (hinp : s.inp = []) : LoadStep s s
  | rejected (e : Error) (l : List StreamItem) (r : Ldr) (hinp : l <:+ s.inp) :
      LoadStep s (raise e { s with inp := l, ldr := r })
  | fills (i : Fin 8) (c : Byte) (rest : List StreamItem) (hphase : s.ldr.phase = .fill i)
      (hinp : s.inp = .char c :: rest) : LoadStep s (fillWindow i c { s with inp := rest })
  | slides (c : Byte) (rest : List StreamItem) (hphase : s.ldr.phase = .scan) (hinp : s.inp = .char c :: rest) :
      LoadStep s (slideWindow c { s with inp := rest })
  | starts (n ah al : Byte) (hphase : s.ldr.phase = .scan) (hwindow : inLoadWindow s.cfg (wordOf ah al) = true) :
      LoadStep s (runRecord s.inp (seedRecord n ah al { s with ldr := { s.ldr with n := n, la := wordOf ah al } }))
  | goesOn (hphase : (∃ left hi, s.ldr.phase = .data left hi) ∨ ∃ hi, s.ldr.phase = .check hi) :
      LoadStep s (runRecord s.inp s)
  | commits (hphase : s.ldr.phase = .commit) : LoadStep s (commitNext s)
  | ends (hphase : s.ldr.phase = .scan) : LoadStep s (endLoad s)

/-- A window holds a record only as an `S1` or an `S9` (R85, R186). -/
theorem decodeWindow_cases {w : Window} {i : Instr} (h : decodeWindow w = .ok i) :
    (∃ c2 c3 c4 c5 c6 c7, i = .s1 c2 c3 c4 c5 c6 c7) ∨ ∃ c2 c3 c4 c5 c6 c7, i = .s9 c2 c3 c4 c5 c6 c7 := by
  unfold decodeWindow at h
  split_ifs at h
  · cases h; exact .inl ⟨_, _, _, _, _, _, rfl⟩
  · cases h; exact .inr ⟨_, _, _, _, _, _, rfl⟩

theorem dataRecord_step (n ah al : Byte) (s : State) (hphase : s.ldr.phase = .scan) :
    LoadStep s (dataRecord n ah al s) := by
  unfold dataRecord
  simp only
  split
  · next hwindow => exact .starts n ah al hphase hwindow
  · exact .rejected _ s.inp _ (List.suffix_refl _)

theorem execS1_step (c2 c3 c4 c5 c6 c7 : Byte) (s : State) (hphase : s.ldr.phase = .scan) :
    ∃ t, execS1 c2 c3 c4 c5 c6 c7 s = .next t ∧ LoadStep s t := by
  unfold execS1
  split
  · exact ⟨_, rfl, dataRecord_step _ _ _ s hphase⟩
  · exact ⟨_, rfl, .rejected _ s.inp s.ldr (List.suffix_refl _)⟩

theorem recvChar_step (use : Byte → State → State) (s : State)
    (huse : ∀ c rest, s.inp = .char c :: rest → LoadStep s (use c { s with inp := rest })) :
    LoadStep s (recvChar use s) := by
  rcases recvChar_cases use s with ⟨hinp, e⟩ | ⟨rest, hinp, e⟩ | ⟨c, rest, hinp, e⟩ <;> rw [e]
  · exact .waits hinp
  · exact .rejected _ rest s.ldr (hinp ▸ List.suffix_cons _ _)
  · exact huse c rest hinp

/-- Every step of a load goes on, and does one of the things of `LoadStep`. -/
theorem loadStep_cases (s : State) : ∃ t, loadStep s = .next t ∧ LoadStep s t := by
  unfold loadStep
  split
  · next i hphase => exact ⟨_, rfl, recvChar_step _ s fun c rest hinp => .fills i c rest hphase hinp⟩
  · next hphase =>
    split
    · next i hwindow =>
      rcases decodeWindow_cases hwindow with ⟨c2, c3, c4, c5, c6, c7, rfl⟩ | ⟨c2, c3, c4, c5, c6, c7, rfl⟩
      · exact execS1_step c2 c3 c4 c5 c6 c7 s hphase
      · exact ⟨_, rfl, .ends hphase⟩
    · exact ⟨_, rfl, recvChar_step _ s fun c rest hinp => .slides c rest hphase hinp⟩
  · next left hi hphase => exact ⟨_, rfl, .goesOn (.inl ⟨left, hi, hphase⟩)⟩
  · next hi hphase => exact ⟨_, rfl, .goesOn (.inr ⟨hi, hphase⟩)⟩
  · next hphase => exact ⟨_, rfl, .commits hphase⟩

/-! ### A step of the machine -/

/-- What a step of the block can do (R22, R260). -/
inductive BlockStep (s : State) : State → Prop
  | idle (hmode : s.opmode = .idle) : BlockStep s s
  | decode (t : State) (hmode : s.opmode = .decode ∨ s.opmode = .disasm) (hstep : DecodeStep s t) : BlockStep s t
  | load (t : State) (hmode : s.opmode = .load) (hstep : LoadStep s t) : BlockStep s t

theorem blockStep_cases (s : State) : ∃ t, blockStep s = .next t ∧ BlockStep s t := by
  unfold blockStep
  cases hmode : s.opmode with
  | idle => exact ⟨s, rfl, .idle hmode⟩
  | decode => exact (decodeStep_cases s).imp fun t ⟨e, h⟩ => ⟨e, .decode t (.inl hmode) h⟩
  | disasm => exact (decodeStep_cases s).imp fun t ⟨e, h⟩ => ⟨e, .decode t (.inr hmode) h⟩
  | load => exact (loadStep_cases s).imp fun t ⟨e, h⟩ => ⟨e, .load t hmode h⟩

/-- What a step of the machine can do: the host's move that is due, or a step of the block, beside which the host's
list may lose a `stay` (log entry 2). -/
inductive MachineStep (s : State) : State → Prop
  | host (m : HostMove) (rest : List HostMove) (hhost : s.host = m :: rest) (hready : hostReady s.opmode m = true) :
      MachineStep s (hostMove m { s with host := rest })
  | block (l : List HostMove) (t : State) (hstep : BlockStep { s with host := l } t) : MachineStep s t

/-- Every step goes on, and does one of the things of `MachineStep`. -/
theorem step_cases (s : State) : ∃ t, step s = .next t ∧ MachineStep s t := by
  have hblock : ∀ l, ∃ t, blockStep { s with host := l } = .next t ∧ MachineStep s t := fun l =>
    (blockStep_cases { s with host := l }).imp fun t ⟨e, h⟩ => ⟨e, .block l t h⟩
  unfold step
  split
  · exact hblock s.host
  · next rest _ => exact hblock rest
  · next m rest _ hhost =>
    split
    · next hready => exact ⟨_, rfl, .host m rest hhost hready⟩
    · exact hblock s.host

theorem machineStep_of_step {s t : State} (h : step s = .next t) : MachineStep s t := by
  obtain ⟨u, e, hu⟩ := step_cases s
  rw [h] at e
  cases e
  exact hu

/-- A move of the host that can be made now is made in the next step. -/
theorem step_of_ready {s : State} {m : HostMove} {rest : List HostMove} (hhost : s.host = m :: rest)
    (hready : hostReady s.opmode m = true) : step s = .next (hostMove m { s with host := rest }) := by
  unfold step
  rw [hhost]
  cases m with
  | stay => cases hready
  | _ => exact if_pos hready

/-- What a request of `disasm` can do (R161 to R164): it is rejected, or the loop begins at START. -/
theorem startDisasm_cases (start stop : Addr) (s : State) :
    (∃ e, startDisasm start stop s =
      raise e { s with opmode := .disasm, drv := { s.drv with start := start, stop := stop } }) ∨
    startDisasm start stop s = driverNext { s with
      opmode := .disasm, drv := ⟨start, stop, start.toNat⟩, out := s.out ++ [.org start] } := by
  unfold startDisasm
  simp only
  split
  · exact .inl ⟨_, rfl⟩
  · split
    · exact .inl ⟨_, rfl⟩
    · exact .inr rfl

/-- What the host's memory write can do (R59, log entry 9). -/
theorem hostWrite_cases (a : Addr) (v : Byte) (s : State) :
    (inWindow s.cfg a = true ∧ hostWrite a v s = { s with mem := s.mem.write a.toNat v }) ∨
    (inWindow s.cfg a = false ∧ hostWrite a v s = s) := by
  unfold hostWrite
  rcases memWrite_cases none a v s with ⟨hw, e⟩ | ⟨hw, e⟩ <;> rw [e]
  · exact .inl ⟨hw, rfl⟩
  · exact .inr ⟨hw, rfl⟩

end Sys2Proof.Machine
end

section
/-! PROOF. What no step changes, and when `OPMODE` changes: O33, O35, O38, O41. -/

namespace Sys2Proof.Machine

/-! ### The configuration -/

/-- The head of the driver's loop touches `DEC`, `OPMODE`, `OUT` and the return, nothing else. -/
theorem driverNext_frame (s : State) :
    (driverNext s).cfg = s.cfg ∧ (driverNext s).mem = s.mem ∧ (driverNext s).inp = s.inp ∧
    (driverNext s).drv = s.drv ∧ (driverNext s).ldr = s.ldr := by
  rcases driverNext_cases s with ⟨-, e⟩ | ⟨-, e⟩ <;> simp [e]

/-- A decode of a driver run ends with the advance of the cursor by the result's length and the head of the loop. -/
theorem finishDecode_pass (d : DecodedInstruction) (s : State) (hmode : s.opmode = .disasm) :
    ∃ o n, finishDecode d s = driverNext { s with
      dec := { s.dec with result := d }, drv := { s.drv with cur := s.drv.cur + d.consumedBytes }, out := o
      draws := n } := by
  rw [finishDecode_driver d s hmode, driverPass_eq]
  exact ⟨_, _, rfl⟩

/-- The end of a decode, in a driver run or not, keeps the configuration, memory, the stream and the loader. -/
theorem finishDecode_frame (d : DecodedInstruction) (s : State) :
    (finishDecode d s).cfg = s.cfg ∧ (finishDecode d s).mem = s.mem ∧ (finishDecode d s).inp = s.inp ∧
    (finishDecode d s).ldr = s.ldr := by
  by_cases hmode : s.opmode = .disasm
  · obtain ⟨o, n, e⟩ := finishDecode_pass d s hmode
    simp [e, driverNext_frame]
  · rw [finishDecode_alone d s hmode]
    exact ⟨rfl, rfl, rfl, rfl⟩

theorem DecodeStep.cfg_eq {s t : State} (h : DecodeStep s t) : t.cfg = s.cfg := by
  cases h with
  | skip => rfl
  | done d r n => exact (finishDecode_frame d _).1

theorem commitNext_cfg (s : State) : (commitNext s).cfg = s.cfg := by
  rcases commitNext_cases s with ⟨-, e⟩ | ⟨_, _, _, -, -, e⟩ | ⟨_, _, _, -, -, e⟩ <;> rw [e] <;> rfl

theorem LoadStep.cfg_eq {s t : State} (h : LoadStep s t) : t.cfg = s.cfg := by
  cases h with
  | starts n ah al => exact (runRecord_frame s.inp _).1
  | goesOn => exact (runRecord_frame s.inp s).1
  | commits => exact commitNext_cfg s
  | _ => rfl

theorem BlockStep.cfg_eq {s t : State} (h : BlockStep s t) : t.cfg = s.cfg := by
  cases h with
  | idle => rfl
  | decode _ _ hstep => exact hstep.cfg_eq
  | load _ _ hstep => exact hstep.cfg_eq

theorem hostMove_cfg (m : HostMove) (s : State) : (hostMove m s).cfg = s.cfg := by
  cases m with
  | requestDisasm start stop =>
    rcases startDisasm_cases start stop s with ⟨_, e⟩ | e <;> simp only [hostMove, e]
    · rfl
    · exact (driverNext_frame _).1
  | writeByte a v => rcases hostWrite_cases a v s with ⟨-, e⟩ | ⟨-, e⟩ <;> simp only [hostMove, e]
  | _ => rfl

/-- Settles O33: no case of a step's inversion writes the configuration. -/
theorem configurationNeverChanges : Obligations.ConfigurationNeverChanges := by
  intro s t h
  cases machineStep_of_step h with
  | host m rest => exact hostMove_cfg m _
  | block l t hstep => exact hstep.cfg_eq

/-! ### `OPMODE` -/

/-- What an operation that has ended leaves in the return: a `decode` its result, a driver run `Ok`, a load its summary
or an error (R11, R22). -/
def ReturnsFrom (mode : OpMode) (t : State) : Prop :=
  (mode = .decode ∧ t.ret = .decoded t.dec.result) ∨ (mode = .disasm ∧ t.ret = .disasmOk) ∨
  (mode = .load ∧ ((∃ f n, t.ret = .loadOk f n) ∨ ∃ k e, t.ret = .err k e))

/-- The operation of this mode goes on, or it has ended with its own return. -/
def GoesOnOrReturns (mode : OpMode) (t : State) : Prop :=
  t.opmode = mode ∨ (t.opmode = .idle ∧ ReturnsFrom mode t)

/-- An error ends a load with its own return. -/
theorem raise_returns (e : Error) (s : State) : GoesOnOrReturns .load (raise e s) :=
  .inr ⟨rfl, .inr (.inr ⟨rfl, .inr ⟨_, _, rfl⟩⟩)⟩

theorem driverNext_mode {s : State} (hmode : s.opmode = .disasm) : GoesOnOrReturns .disasm (driverNext s) := by
  rcases driverNext_cases s with ⟨-, e⟩ | ⟨-, e⟩ <;> rw [e]
  · exact .inl hmode
  · exact .inr ⟨rfl, .inr (.inl ⟨rfl, rfl⟩)⟩

theorem DecodeStep.mode {s t : State} (h : DecodeStep s t) (hmode : s.opmode = .decode ∨ s.opmode = .disasm) :
    GoesOnOrReturns s.opmode t := by
  cases h with
  | skip => exact .inl rfl
  | done d r n =>
    rcases hmode with hmode | hmode
    · rw [finishDecode_alone _ _ (by simp [hmode])]
      exact .inr ⟨rfl, .inl ⟨hmode, rfl⟩⟩
    · obtain ⟨o, n, e⟩ := finishDecode_pass d { s with dec := r, draws := n } hmode
      rw [e, hmode]
      exact driverNext_mode rfl

/-- A character of a data record leaves `OPMODE` as it is, or it ends the load with an error and the record with it. -/
theorem recordChar_mode (c : Byte) (s : State) :
    (recordChar c s).1.opmode = s.opmode ∨
    ((recordChar c s).2 = false ∧ ∃ e u, (recordChar c s).1 = raise e u) := by
  have hstep := recordChar_step c s
  generalize recordChar c s = p at hstep
  cases hstep with
  | rejected e r => exact .inr ⟨rfl, e, _, rfl⟩
  | _ => exact .inl rfl

theorem runRecord_mode (l : List StreamItem) :
    ∀ s : State, s.opmode = .load → GoesOnOrReturns .load (runRecord l s) := by
  induction l with
  | nil => exact fun s hmode => .inl hmode
  | cons x rest ih =>
    intro s hmode
    cases x with
    | eos => exact raise_returns _ _
    | char c =>
      unfold runRecord
      rcases recordChar_mode c { s with inp := rest } with hsame | ⟨hends, e, u, hraise⟩
      · simp only
        split
        · exact ih _ (hsame.trans hmode)
        · exact .inl (hsame.trans hmode)
      · simp only [hends, hraise]
        exact raise_returns e u

theorem commitNext_mode {s : State} (hmode : s.opmode = .load) : GoesOnOrReturns .load (commitNext s) := by
  rcases commitNext_cases s with ⟨-, e⟩ | ⟨_, _, _, -, -, e⟩ | ⟨_, _, _, -, -, e⟩ <;> rw [e]
  · exact .inl hmode
  · exact .inl hmode
  · exact raise_returns _ s

theorem LoadStep.mode {s t : State} (h : LoadStep s t) (hmode : s.opmode = .load) : GoesOnOrReturns .load t := by
  cases h with
  | rejected e l r => exact raise_returns e _
  | starts n ah al => exact runRecord_mode s.inp _ hmode
  | goesOn => exact runRecord_mode s.inp s hmode
  | commits => exact commitNext_mode hmode
  | ends => exact .inr ⟨rfl, .inr (.inr ⟨rfl, .inl ⟨_, _, rfl⟩⟩)⟩
  | _ => exact .inl hmode

/-- A step of the block leaves `OPMODE` as it is, or ends the operation with its own return. -/
theorem BlockStep.mode {s t : State} (h : BlockStep s t) : GoesOnOrReturns s.opmode t := by
  cases h with
  | idle => exact .inl rfl
  | decode _ hmode hstep => exact hstep.mode hmode
  | load _ hmode hstep => exact hmode ▸ hstep.mode hmode

/-- A move of the host that starts the operation of this mode. -/
def Requests (m : HostMove) (mode : OpMode) : Prop :=
  (∃ a, m = .requestDecode a ∧ mode = .decode) ∨ (∃ a b, m = .requestDisasm a b ∧ mode = .disasm) ∨
  (m = .requestLoad ∧ mode = .load)

theorem startDisasm_mode (start stop : Addr) (s : State) :
    (startDisasm start stop s).opmode = .disasm ∨ (startDisasm start stop s).opmode = .idle := by
  rcases startDisasm_cases start stop s with ⟨e, h⟩ | h <;> rw [h]
  · exact .inr rfl
  · exact (driverNext_mode rfl).imp_right And.left

/-- A move of the host leaves `OPMODE` as it is, puts it at `IDLE` (a rejected request from `IDLE`, a reset), or is the
request of the operation that now runs. -/
theorem hostMove_mode {m : HostMove} {s : State} (hready : hostReady s.opmode m = true) :
    (hostMove m s).opmode = s.opmode ∨ (m = .reset ∧ (hostMove m s).opmode = .idle) ∨
    (s.opmode = .idle ∧ Requests m (hostMove m s).opmode) := by
  cases m with
  | requestDecode a => exact .inr (.inr ⟨eq_of_beq hready, .inl ⟨a, rfl, rfl⟩⟩)
  | requestDisasm a b =>
    have hidle : s.opmode = .idle := eq_of_beq hready
    rcases startDisasm_mode a b s with h | h
    · exact .inr (.inr ⟨hidle, .inr (.inl ⟨a, b, rfl, h⟩)⟩)
    · exact .inl (h.trans hidle.symm)
  | requestLoad => exact .inr (.inr ⟨eq_of_beq hready, .inr (.inr ⟨rfl, rfl⟩)⟩)
  | writeByte a v =>
    left
    rcases hostWrite_cases a v s with ⟨-, e⟩ | ⟨-, e⟩ <;> simp only [hostMove, e]
  | reset => exact .inr (.inl ⟨rfl, rfl⟩)
  | _ => exact .inl rfl

/-- Settles O35: a step of the block keeps `OPMODE` or ends its operation, and the host moves it only by a request from
`IDLE` or a reset. -/
theorem operationModeChangesOnlyAtEnds : Obligations.OperationModeChangesOnlyAtEnds := by
  intro s t h
  by_cases hsame : t.opmode = s.opmode
  · exact ⟨fun hs ht => absurd (hsame.trans hs) ht, fun _ => .inl hsame, fun hs ht => absurd (hsame.symm.trans ht) hs⟩
  cases machineStep_of_step h with
  | host m rest hhost hready =>
    rcases hostMove_mode (s := { s with host := rest }) hready with hkept | ⟨rfl, hidle⟩ | ⟨hidle, hrequest⟩
    · exact absurd hkept hsame
    · exact ⟨fun _ ht => absurd hidle ht, fun _ => .inr hidle, fun _ _ => .inl ⟨rest, hhost⟩⟩
    · exact ⟨fun _ _ => ⟨m, rest, hhost, hrequest⟩, fun hs => absurd hidle hs, fun hs => absurd hidle hs⟩
  | block l t hstep =>
    rcases hstep.mode with hkept | ⟨hidle, hreturns⟩
    · exact absurd hkept hsame
    · exact ⟨fun _ ht => absurd hidle ht, fun _ => .inr hidle, fun _ _ => .inr hreturns⟩

/-! ### The host -/

/-- Settles O38: a reset is due at any time, and `hardwareReset` says what it keeps. -/
theorem resetKeepsMemoryAndConfiguration : Obligations.ResetKeepsMemoryAndConfiguration := fun s rest hhost =>
  ⟨hardwareReset { s with host := rest }, step_of_ready hhost rfl, rfl, rfl, rfl, rfl, rfl, rfl, fun _ _ => nofun⟩

/-- A write stores its byte and no other. -/
theorem stored_write (m : Memory) (a : Nat) (v : Byte) : Stored m (m.write a v) a [v] := by
  refine ⟨fun j hj => ?_, fun x hx => ?_⟩
  · obtain rfl : j = 0 := by simpa using hj
    simp [read_write]
  · simp only [List.length_singleton] at hx
    rw [read_write, if_neg (by omega)]

/-- Settles O41: each move is due, and is one write or one item at the end of the stream. -/
theorem hostWritesAndDelivers : Obligations.HostWritesAndDelivers := by
  intro s a v c rest
  refine ⟨fun hidle hhost hwindow => ?_, fun hhost hc => ?_, fun hhost => ?_, fun hhost => ?_⟩
  · have hstep := step_of_ready hhost (by rw [hidle]; rfl)
    rcases hostWrite_cases a v { s with host := rest } with ⟨-, e⟩ | ⟨hout, -⟩
    · exact ⟨_, hstep.trans (congrArg _ e), rfl, stored_write s.mem a.toNat v⟩
    · exact absurd (hout.symm.trans hwindow) (by decide)
  · rw [step_of_ready hhost rfl]
    simp only [hostMove, normalizeChar, if_neg hc]
  · exact step_of_ready hhost rfl
  · exact step_of_ready hhost rfl

end Sys2Proof.Machine
end

section
/-! PROOF. A stand-alone decode runs to completion: O19. -/

namespace Sys2Proof.Machine

/-- One more step of a run, when it goes on. -/
theorem run_succ {s t : State} (h : step s = .next t) (n : Nat) :
    Host.Core.run core (n + 1) s = Host.Core.run core n t := by
  have hcore : core.step s = .next t := h
  simp only [Host.Core.run, hcore]

/-- A step of a decode that the host leaves alone. -/
theorem step_decode {s : State} (hmode : s.opmode = .decode) (hhost : s.host = []) :
    ∃ t, step s = .next t ∧ DecodeStep s t := by
  obtain ⟨t, e, h⟩ := decodeStep_cases s
  refine ⟨t, ?_, h⟩
  unfold step blockStep
  simpa only [hhost, hmode] using e

/-- `t` is the state in which the decode that stood in `s` has returned its result; memory, the streams, the driver, the
loader and the configuration are as they were (R100, R110). -/
structure DecodeReturned (s t : State) : Prop where
  mode : t.opmode = .idle
  ret : t.ret = .decoded t.dec.result
  address : t.dec.result.address = s.dec.da
  length : 1 ≤ t.dec.result.consumedBytes ∧ t.dec.result.consumedBytes ≤ s.cfg.escBudget + 3
  mem : t.mem = s.mem
  inp : t.inp = s.inp
  out : t.out = s.out
  drv : t.drv = s.drv
  ldr : t.ldr = s.ldr
  cfg : t.cfg = s.cfg

/-- What the decode returns after an escape is what it returns before it. -/
theorem DecodeReturned.of_skip {s t : State} {b : Byte} {n : Nat}
    (h : DecodeReturned { s with dec := { s.dec with pb := b, k := s.dec.k + 1 }, draws := n } t) :
    DecodeReturned s t :=
  ⟨h.mode, h.ret, h.address, h.length, h.mem, h.inp, h.out, h.drv, h.ldr, h.cfg⟩

/-- A step that ends a stand-alone decode returns its result. -/
theorem finishDecode_returned {s : State} (hmode : s.opmode = .decode) (d : DecodedInstruction) (r : Dec) (n : Nat)
    (haddress : d.address = s.dec.da) (hlength : 1 ≤ d.consumedBytes ∧ d.consumedBytes ≤ s.cfg.escBudget + 3) :
    DecodeReturned s (finishDecode d { s with dec := r, draws := n }) := by
  rw [finishDecode_alone d _ (by simp [hmode])]
  exact ⟨rfl, rfl, haddress, hlength, rfl, rfl, rfl, rfl, rfl, rfl⟩

/-- A decode with this budget `left` returns after one more step at most: each step skips an escape, which uses up
budget, or ends the decode. -/
theorem decode_returns (left : Nat) : ∀ s : State, s.opmode = .decode → s.host = [] →
    s.dec.k + left = s.cfg.escBudget →
    ∃ n t, n ≤ left + 1 ∧ Host.Core.run core n s = .next t ∧ DecodeReturned s t := by
  induction left with
  | zero =>
    intro s hmode hhost hbudget
    obtain ⟨t, hstep, hcases⟩ := step_decode hmode hhost
    cases hcases with
    | skip b n hlt => omega
    | done d r n hda hk haddress hlo hhi =>
      exact ⟨1, _, le_rfl, run_succ hstep 0, finishDecode_returned hmode d r n haddress (by omega)⟩
  | succ left ih =>
    intro s hmode hhost hbudget
    obtain ⟨t, hstep, hcases⟩ := step_decode hmode hhost
    cases hcases with
    | skip b n hlt =>
      obtain ⟨j, u, hj, hrun, hu⟩ :=
        ih { s with dec := { s.dec with pb := b, k := s.dec.k + 1 }, draws := n } hmode hhost (by simp only; omega)
      exact ⟨j + 1, u, by omega, (run_succ hstep j).trans hrun, hu.of_skip⟩
    | done d r n hda hk haddress hlo hhi =>
      exact ⟨1, _, by omega, run_succ hstep 0, finishDecode_returned hmode d r n haddress (by omega)⟩

/-- Settles O19, by induction on the budget left. -/
theorem decodeRunsToCompletion : Obligations.DecodeRunsToCompletion := by
  intro s hmode hhost hbudget
  obtain ⟨n, t, hn, hrun, h⟩ := decode_returns (s.cfg.escBudget - s.dec.k) s hmode hhost (by omega)
  exact ⟨n, t, by omega, hrun, h.mode, h.ret, h.address, h.length.1, h.length.2, h.mem, h.inp, h.out, h.drv, h.ldr,
    h.cfg⟩

end Sys2Proof.Machine
end

section
/-! PROOF. The invariant holds at reset and every step keeps it: O31, O32. -/

namespace Sys2Proof.Machine

/-! ### The invariant in three parts -/

/-- The part of the invariant that holds whatever operation runs. -/
structure Sound (s : State) : Prop where
  admissible : s.cfg.Admissible
  noWrap : s.cfg.max.toNat + 252 < 65536
  memCanonical : s.mem.wf = true
  memInWindow : MemInWindow s
  escapesInBudget : s.dec.k ≤ s.cfg.escBudget
  resultLength : 1 ≤ s.dec.result.consumedBytes ∧ s.dec.result.consumedBytes ≤ maxConsumed s.cfg
  normalized : StreamItem.char 0x0D ∉ s.inp

/-- The part about a driver run (R164). -/
def DriverSound (s : State) : Prop :=
  s.opmode = .disasm → s.drv.cur ≤ s.drv.stop.toNat ∧ s.dec.da = BitVec.ofNat 16 s.drv.cur

/-- The part about a load's registers (R58, R181, R189, R193, R199). -/
structure LoaderSound (c : Config) (r : Ldr) : Prop where
  lineFromOne : 1 ≤ r.line
  writeCursor : CursorMatches r
  inRecord : InRecord c r

theorem loaderSound_iff (c : Config) (r : Ldr) :
    LoaderSound c r ↔ 1 ≤ r.line ∧ CursorMatches r ∧ InRecord c r :=
  ⟨fun ⟨hline, hcursor, hrecord⟩ => ⟨hline, hcursor, hrecord⟩,
    fun ⟨hline, hcursor, hrecord⟩ => ⟨hline, hcursor, hrecord⟩⟩

/-- The invariant is its three parts. -/
theorem inv_iff (s : State) : Inv s ↔ Sound s ∧ DriverSound s ∧ (s.opmode = .load → LoaderSound s.cfg s.ldr) := by
  constructor
  · intro h
    exact ⟨⟨h.admissible, h.noWrap, h.memCanonical, h.memInWindow, h.escapesInBudget, h.resultLength, h.normalized⟩,
      h.driverCursor, fun hmode => ⟨h.lineFromOne hmode, h.writeCursor hmode, h.inRecord hmode⟩⟩
  · rintro ⟨hs, hd, hl⟩
    exact ⟨hs.admissible, hs.noWrap, hs.memCanonical, hs.memInWindow, hs.escapesInBudget, hs.resultLength, hd,
      fun hmode => (hl hmode).lineFromOne, fun hmode => (hl hmode).writeCursor, fun hmode => (hl hmode).inRecord,
      hs.normalized⟩

theorem Inv.sound {s : State} (h : Inv s) : Sound s := ((inv_iff s).mp h).1

theorem Inv.loaderSound {s : State} (h : Inv s) (hmode : s.opmode = .load) : LoaderSound s.cfg s.ldr :=
  ⟨h.lineFromOne hmode, h.writeCursor hmode, h.inRecord hmode⟩

/-- With no operation, or a stand-alone decode, only the common part is asked. -/
theorem Sound.inv_of_quiet {s : State} (h : Sound s) (hmode : s.opmode = .idle ∨ s.opmode = .decode) : Inv s := by
  refine (inv_iff s).mpr ⟨h, fun hd => ?_, fun hl => ?_⟩ <;> rcases hmode with e | e <;> simp_all

theorem Sound.inv_of_load {s : State} (h : Sound s) (hmode : s.opmode = .load) (hl : LoaderSound s.cfg s.ldr) :
    Inv s :=
  (inv_iff s).mpr ⟨h, fun hd => by simp_all, fun _ => hl⟩

theorem Sound.inv_of_disasm {s : State} (h : Sound s) (hmode : s.opmode = .disasm)
    (hd : s.drv.cur ≤ s.drv.stop.toNat ∧ s.dec.da = BitVec.ofNat 16 s.drv.cur) : Inv s :=
  (inv_iff s).mpr ⟨h, fun _ => hd, fun hl => by simp_all⟩

/-! ### The common part under each kind of update -/

/-- The common part is about the configuration, memory, the decoder and the stream only. -/
theorem Sound.congr {s t : State} (h : Sound s) (hcfg : t.cfg = s.cfg) (hmem : t.mem = s.mem) (hdec : t.dec = s.dec)
    (hinp : t.inp = s.inp) : Sound t := by
  obtain ⟨cfg, mem, opmode, dec, drv, ldr, inp, out, ret, host, draws⟩ := t
  subst hcfg hmem hdec hinp
  exact ⟨h.admissible, h.noWrap, h.memCanonical, h.memInWindow, h.escapesInBudget, h.resultLength, h.normalized⟩

theorem Sound.withDec {s : State} (h : Sound s) (r : Dec) (hk : r.k ≤ s.cfg.escBudget)
    (hlength : 1 ≤ r.result.consumedBytes ∧ r.result.consumedBytes ≤ maxConsumed s.cfg) :
    Sound { s with dec := r } :=
  ⟨h.admissible, h.noWrap, h.memCanonical, h.memInWindow, hk, hlength, h.normalized⟩

theorem Sound.withInp {s : State} (h : Sound s) {l : List StreamItem} (hl : StreamItem.char 0x0D ∉ l) :
    Sound { s with inp := l } :=
  ⟨h.admissible, h.noWrap, h.memCanonical, h.memInWindow, h.escapesInBudget, h.resultLength, hl⟩

/-- A write inside the valid window keeps memory canonical and inside the window (R50). -/
theorem Sound.withWrite {s : State} (h : Sound s) {a : Addr} (ha : inWindow s.cfg a = true) (v : Byte) :
    Sound { s with mem := s.mem.write a.toNat v } := by
  refine ⟨h.admissible, h.noWrap, write_wf _ _ _ h.memCanonical, fun c hc => ?_, h.escapesInBudget, h.resultLength,
    h.normalized⟩
  rcases mem_write s.mem a.toNat v c hc with rfl | hold
  · exact (inWindow_iff s.cfg a).mp ha
  · exact h.memInWindow c hold

theorem Sound.raise_inv {s : State} (h : Sound s) (e : Error) : Inv (raise e s) :=
  (h.congr (t := raise e s) rfl rfl rfl rfl).inv_of_quiet (.inl rfl)

/-! ### A decode -/

theorem Sound.startDecode {s : State} (h : Sound s) (a : Addr) : Sound (startDecode a s) :=
  h.withDec { s.dec with da := a, k := 0, pb := 0x00, is16 := false } (Nat.zero_le _) h.resultLength

theorem Sound.driverNext_inv {s : State} (h : Sound s) (hmode : s.opmode = .disasm) : Inv (driverNext s) := by
  rcases driverNext_cases s with ⟨hle, e⟩ | ⟨-, e⟩ <;> rw [e]
  · exact (h.startDecode _).inv_of_disasm hmode ⟨hle, rfl⟩
  · exact (h.congr (t := finish .disasmOk (emit (.endMark s.drv.stop) s)) rfl rfl rfl rfl).inv_of_quiet (.inl rfl)

/-- The end of a decode keeps the invariant when its result and its registers meet the common part. -/
theorem finishDecode_inv {s : State} {d : DecodedInstruction} {r : Dec}
    (hmode : s.opmode = .decode ∨ s.opmode = .disasm) (h : Sound { s with dec := { r with result := d } }) (n : Nat) :
    Inv (finishDecode d { s with dec := r, draws := n }) := by
  rcases hmode with hmode | hmode
  · rw [finishDecode_alone d _ (by simp [hmode])]
    exact Sound.inv_of_quiet (h.congr rfl rfl rfl rfl) (.inl rfl)
  · obtain ⟨o, n', e⟩ := finishDecode_pass d { s with dec := r, draws := n } hmode
    rw [e]
    exact Sound.driverNext_inv (h.congr rfl rfl rfl rfl) hmode

theorem DecodeStep.inv {s t : State} (hstep : DecodeStep s t) (hmode : s.opmode = .decode ∨ s.opmode = .disasm)
    (h : Inv s) : Inv t := by
  cases hstep with
  | skip b n hbudget =>
    have hsound := h.sound.withDec { s.dec with pb := b, k := s.dec.k + 1 } hbudget h.resultLength
    rcases hmode with hmode | hmode
    · exact Sound.inv_of_quiet (hsound.congr rfl rfl rfl rfl) (.inr hmode)
    · exact Sound.inv_of_disasm (hsound.congr rfl rfl rfl rfl) hmode (h.driverCursor hmode)
  | done d r n hda hk haddress hlo hhi =>
    have hbudget := h.escapesInBudget
    have hlength : 1 ≤ d.consumedBytes ∧ d.consumedBytes ≤ maxConsumed s.cfg := by unfold maxConsumed; omega
    exact finishDecode_inv hmode (h.sound.withDec { r with result := d } (hk ▸ hbudget) hlength) n

/-! ### The loader's registers -/

/-- The record passed the load-window check, and its buffered bytes start there (R189, R199). -/
def HeaderPassed (c : Config) (r : Ldr) : Prop :=
  c.lfStart ≤ r.la ∧ r.la ≤ c.lfMax ∧ ∀ p ∈ r.lineBuf, c.lfStart ≤ p.1

/-- With `left` data pairs to go, the write cursor is where the next one goes (R192, R193). -/
def CursorAt (r : Ldr) (left : Nat) : Prop :=
  left ≤ r.n.toNat - 3 ∧ r.wc.toNat = r.la.toNat + (r.n.toNat - 3 - left)

theorem loaderSound_fill {c : Config} {r : Ldr} {i : Fin 8} (hphase : r.phase = .fill i) :
    LoaderSound c r ↔ 1 ≤ r.line := by
  simp [loaderSound_iff, CursorMatches, InRecord, hphase]

theorem loaderSound_scan {c : Config} {r : Ldr} (hphase : r.phase = .scan) : LoaderSound c r ↔ 1 ≤ r.line := by
  simp [loaderSound_iff, CursorMatches, InRecord, hphase]

theorem loaderSound_data {c : Config} {r : Ldr} {left : Nat} {hi : Option Byte} (hphase : r.phase = .data left hi) :
    LoaderSound c r ↔ 1 ≤ r.line ∧ (1 ≤ left ∧ CursorAt r left) ∧ HeaderPassed c r := by
  simp [loaderSound_iff, CursorMatches, InRecord, hphase, CursorAt, HeaderPassed]

theorem loaderSound_check {c : Config} {r : Ldr} {hi : Option Byte} (hphase : r.phase = .check hi) :
    LoaderSound c r ↔ 1 ≤ r.line ∧ HeaderPassed c r := by
  simp [loaderSound_iff, CursorMatches, InRecord, hphase, HeaderPassed]

theorem loaderSound_commit {c : Config} {r : Ldr} (hphase : r.phase = .commit) :
    LoaderSound c r ↔ 1 ≤ r.line ∧ HeaderPassed c r := by
  simp [loaderSound_iff, CursorMatches, InRecord, hphase, HeaderPassed]

/-- At the next data pair, or at the checksum after the last one. -/
theorem loaderSound_pairPhase {c : Config} {r : Ldr} {left : Nat} (hphase : r.phase = pairPhase left)
    (hline : 1 ≤ r.line) (hcursor : CursorAt r left) (hheader : HeaderPassed c r) : LoaderSound c r := by
  unfold pairPhase at hphase
  split at hphase
  · exact (loaderSound_check hphase).mpr ⟨hline, hheader⟩
  · exact (loaderSound_data hphase).mpr ⟨hline, ⟨by omega, hcursor⟩, hheader⟩

/-- The write cursor does not wrap within a record: at most 252 data bytes follow the load address (R58). -/
theorem cursorAt_next {c : Config} {r : Ldr} {left : Nat} (hadmissible : c.Admissible)
    (hwrap : c.max.toNat + 252 < 65536) (hpos : 1 ≤ left) (hcursor : CursorAt r left) (hheader : HeaderPassed c r) :
    CursorAt { r with wc := r.wc + 1 } (left - 1) := by
  obtain ⟨-, -, -, hmax, -⟩ := hadmissible
  obtain ⟨hleft, hwc⟩ := hcursor
  obtain ⟨-, hla, -⟩ := hheader
  have hn := r.n.isLt
  rw [BitVec.le_def] at hmax hla
  have hsucc : (r.wc + 1).toNat = r.wc.toNat + 1 := by
    rw [BitVec.toNat_add, show (1 : Addr).toNat = 1 from rfl]
    omega
  exact ⟨by simp only; omega, by simp only [hsucc]; omega⟩

/-- A byte put into the line buffer has its address in the load window or above (R199). -/
theorem headerPassed_append {c : Config} {r : Ldr} {left : Nat} (hcursor : CursorAt r left)
    (hheader : HeaderPassed c r) (d : Byte) : HeaderPassed c { r with lineBuf := r.lineBuf ++ [(r.wc, d)] } := by
  obtain ⟨-, hwc⟩ := hcursor
  obtain ⟨hla, hmax, hbuf⟩ := hheader
  refine ⟨hla, hmax, fun p hp => ?_⟩
  rcases List.mem_append.mp hp with hold | hnew
  · exact hbuf p hold
  · have hle : c.lfStart ≤ r.wc := by
      rw [BitVec.le_def] at hla ⊢
      omega
    exact List.mem_singleton.mp hnew ▸ hle

/-! ### A load -/

/-- A load's step changes memory, the stream or its registers; what is left to show is about those. -/
theorem Sound.load_inv {s t : State} (h : Sound s) (hmode : t.opmode = .load) (hcfg : t.cfg = s.cfg)
    (hmem : t.mem = s.mem) (hdec : t.dec = s.dec) (hinp : t.inp = s.inp) (hl : LoaderSound s.cfg t.ldr) : Inv t :=
  (h.congr hcfg hmem hdec hinp).inv_of_load hmode (hcfg ▸ hl)

/-- One character of a data record keeps the invariant. -/
theorem RecordCharStep.inv {c : Byte} {s : State} {p : State × Bool} (hstep : RecordCharStep c s p)
    (hmode : s.opmode = .load) (h : Inv s) : Inv p.1 := by
  have hs := h.sound
  have hl := h.loaderSound hmode
  cases hstep with
  | notInRecord => exact h
  | rejected e r => exact (hs.congr (t := { s with ldr := r }) rfl rfl rfl rfl).raise_inv e
  | dataHalf left hphase =>
    exact hs.load_inv hmode rfl rfl rfl rfl ((loaderSound_data rfl).mpr ((loaderSound_data hphase).mp hl))
  | checkHalf hphase =>
    exact hs.load_inv hmode rfl rfl rfl rfl ((loaderSound_check rfl).mpr ((loaderSound_check hphase).mp hl))
  | written left hi d hphase hpair hcommit hwindow =>
    obtain ⟨hline, ⟨hpos, hcursor⟩, hheader⟩ := (loaderSound_data hphase).mp hl
    have hnext := cursorAt_next hs.admissible hs.noWrap hpos hcursor hheader
    exact (hs.withWrite hwindow d).load_inv hmode rfl rfl rfl rfl (loaderSound_pairPhase rfl hline hnext hheader)
  | buffered left hi d hphase hpair hcommit =>
    obtain ⟨hline, ⟨hpos, hcursor⟩, hheader⟩ := (loaderSound_data hphase).mp hl
    have hnext := cursorAt_next hs.admissible hs.noWrap hpos hcursor hheader
    have hbuf := headerPassed_append hcursor hheader d
    exact hs.load_inv hmode rfl rfl rfl rfl (loaderSound_pairPhase rfl hline hnext hbuf)
  | accepted hi t hphase =>
    exact hs.load_inv hmode rfl rfl rfl rfl ((loaderSound_fill rfl).mpr (Nat.le_add_left 1 _))
  | acceptedBuffered hi t hphase =>
    exact hs.load_inv hmode rfl rfl rfl rfl ((loaderSound_commit rfl).mpr ((loaderSound_check hphase).mp hl))

theorem Inv.withInp {s : State} (h : Inv s) {l : List StreamItem} (hl : StreamItem.char 0x0D ∉ l) :
    Inv { s with inp := l } :=
  ⟨h.admissible, h.noWrap, h.memCanonical, h.memInWindow, h.escapesInBudget, h.resultLength, h.driverCursor,
    h.lineFromOne, h.writeCursor, h.inRecord, hl⟩

theorem Inv.withHost {s : State} (h : Inv s) (l : List HostMove) : Inv { s with host := l } :=
  ⟨h.admissible, h.noWrap, h.memCanonical, h.memInWindow, h.escapesInBudget, h.resultLength, h.driverCursor,
    h.lineFromOne, h.writeCursor, h.inRecord, h.normalized⟩

/-- A data record keeps the invariant, by induction on the characters at hand. -/
theorem runRecord_inv (l : List StreamItem) : ∀ s : State, s.opmode = .load → StreamItem.char 0x0D ∉ l → Inv s →
    Inv (runRecord l s) := by
  induction l with
  | nil => exact fun s _ hl h => h.withInp hl
  | cons x rest ih =>
    intro s hmode hl h
    have hrest : StreamItem.char 0x0D ∉ rest := fun hmem => hl (List.mem_cons_of_mem x hmem)
    cases x with
    | eos => exact (h.withInp hrest).sound.raise_inv _
    | char c =>
      have hnext := (recordChar_step c { s with inp := rest }).inv hmode (h.withInp hrest)
      unfold runRecord
      simp only
      split
      · next hmore =>
        rcases recordChar_mode c { s with inp := rest } with hsame | ⟨hends, -⟩
        · exact ih _ (hsame.trans hmode) hrest hnext
        · exact absurd (hends.symm.trans hmore) (by decide)
      · exact hnext

theorem commitNext_inv {s : State} (hmode : s.opmode = .load) (hphase : s.ldr.phase = .commit) (h : Inv s) :
    Inv (commitNext s) := by
  have hs := h.sound
  obtain ⟨hline, hlo, hhi, hbuf⟩ := (loaderSound_commit hphase).mp (h.loaderSound hmode)
  rcases commitNext_cases s with ⟨-, e⟩ | ⟨a, d, rest, hcons, hwindow, e⟩ | ⟨_, _, _, -, -, e⟩ <;> rw [e]
  · exact hs.load_inv hmode rfl rfl rfl rfl ((loaderSound_fill rfl).mpr (Nat.le_add_left 1 _))
  · have hrest : ∀ p ∈ rest, s.cfg.lfStart ≤ p.1 := fun p hp => hbuf p (hcons ▸ List.mem_cons_of_mem _ hp)
    refine (hs.withWrite hwindow d).load_inv hmode rfl rfl rfl rfl ((loaderSound_commit ?_).mpr ?_)
    · exact hphase
    · exact ⟨hline, hlo, hhi, hrest⟩
  · exact hs.raise_inv _

/-- A record that passed the load-window check starts with its cursor at the load address (R190 to R192). -/
theorem seedRecord_loaderSound {c : Config} {n ah al : Byte} (hwindow : inLoadWindow c (wordOf ah al) = true)
    (s : State) (hline : 1 ≤ s.ldr.line) :
    LoaderSound c (seedRecord n ah al { s with ldr := { s.ldr with n := n, la := wordOf ah al } }).ldr := by
  obtain ⟨hlo, hhi⟩ := (inLoadWindow_iff c _).mp hwindow
  refine loaderSound_pairPhase rfl hline ⟨le_rfl, ?_⟩ ⟨hlo, hhi, fun _ hp => nomatch hp⟩
  exact (Nat.add_eq_left.mpr (Nat.sub_self _)).symm

theorem fillWindow_loaderSound {c : Config} (i : Fin 8) (b : Byte) {s : State} (hline : 1 ≤ s.ldr.line) :
    LoaderSound c (fillWindow i b s).ldr := by
  by_cases hi : i.val + 1 < 8
  · exact (loaderSound_fill (i := ⟨i.val + 1, hi⟩) (by simp [fillWindow, hi])).mpr hline
  · exact (loaderSound_scan (by simp [fillWindow, hi])).mpr hline

theorem slideWindow_loaderSound {c : Config} (b : Byte) {s : State} (hphase : s.ldr.phase = .scan)
    (hline : 1 ≤ s.ldr.line) : LoaderSound c (slideWindow b s).ldr :=
  (loaderSound_scan (by simp [hphase])).mpr hline

theorem LoadStep.inv {s t : State} (hstep : LoadStep s t) (hmode : s.opmode = .load) (h : Inv s) : Inv t := by
  have hs := h.sound
  have hline := h.lineFromOne hmode
  have htail : ∀ {x rest}, s.inp = x :: rest → Sound { s with inp := rest } := fun hinp =>
    hs.withInp fun hmem => h.normalized (hinp ▸ List.mem_cons_of_mem _ hmem)
  cases hstep with
  | waits => exact h
  | rejected e l r hinp =>
    have hsound := hs.withInp (l := l) fun hmem => h.normalized (hinp.mem hmem)
    exact (hsound.congr (t := { s with inp := l, ldr := r }) rfl rfl rfl rfl).raise_inv e
  | fills i c rest hphase hinp =>
    exact (htail hinp).load_inv hmode rfl rfl rfl rfl (fillWindow_loaderSound i c hline)
  | slides c rest hphase hinp =>
    exact (htail hinp).load_inv hmode rfl rfl rfl rfl (slideWindow_loaderSound c hphase hline)
  | starts n ah al hphase hwindow =>
    refine runRecord_inv s.inp _ hmode h.normalized ?_
    exact hs.load_inv hmode rfl rfl rfl rfl (seedRecord_loaderSound hwindow s hline)
  | goesOn => exact runRecord_inv s.inp s hmode h.normalized h
  | commits hphase => exact commitNext_inv hmode hphase h
  | ends => exact (hs.congr (t := endLoad s) rfl rfl rfl rfl).inv_of_quiet (.inl rfl)

/-! ### The host, and the machine -/

theorem normalizeChar_ne_cr (c : Byte) : normalizeChar c ≠ 0x0D := by
  unfold normalizeChar
  split
  · decide
  · assumption

/-- What is appended to the stream keeps it normalised. -/
theorem Inv.withDelivery {s : State} (h : Inv s) {x : StreamItem} (hx : x ≠ .char 0x0D) :
    Inv { s with inp := s.inp ++ [x] } :=
  h.withInp (by simpa using ⟨h.normalized, hx.symm⟩)

theorem startDisasm_inv (start stop : Addr) {s : State} (h : Sound s) : Inv (startDisasm start stop s) := by
  rcases startDisasm_cases start stop s with ⟨e, hraise⟩ | hnext
  · rw [hraise]
    refine Sound.raise_inv ?_ e
    exact h.congr rfl rfl rfl rfl
  · rw [hnext]
    exact Sound.driverNext_inv (h.congr rfl rfl rfl rfl) rfl

/-- The registers after a reset meet the common part, whatever the configuration (R36). -/
theorem Sound.hardwareReset {s : State} (h : Sound s) : Sound (hardwareReset s) := by
  have hlength : 1 ≤ resetDec.result.consumedBytes ∧ resetDec.result.consumedBytes ≤ maxConsumed s.cfg :=
    ⟨le_rfl, Nat.le_add_left 1 (s.cfg.escBudget + 2)⟩
  exact (h.withDec resetDec (Nat.zero_le _) hlength).congr rfl rfl rfl rfl

/-- A move of the host that can be made now keeps the invariant. -/
theorem hostMove_inv {m : HostMove} {s : State} (hready : hostReady s.opmode m = true) (h : Inv s) :
    Inv (hostMove m s) := by
  have hs := h.sound
  cases m with
  | requestDecode a => exact Sound.inv_of_quiet ((hs.startDecode a).congr rfl rfl rfl rfl) (.inr rfl)
  | requestDisasm start stop => exact startDisasm_inv start stop hs
  | requestLoad => exact hs.load_inv rfl rfl rfl rfl rfl ((loaderSound_fill rfl).mpr le_rfl)
  | writeByte a v =>
    have hidle : s.opmode = .idle := eq_of_beq hready
    rcases hostWrite_cases a v s with ⟨hwindow, e⟩ | ⟨-, e⟩ <;> simp only [hostMove, e]
    · exact (hs.withWrite hwindow v).inv_of_quiet (.inl hidle)
    · exact h
  | deliver c => exact h.withDelivery (by simpa using normalizeChar_ne_cr c)
  | endStream => exact h.withDelivery (by simp)
  | reset => exact hs.hardwareReset.inv_of_quiet (.inl rfl)
  | stay => cases hready

theorem BlockStep.inv {s t : State} (hstep : BlockStep s t) (h : Inv s) : Inv t := by
  cases hstep with
  | idle => exact h
  | decode _ hmode hdecode => exact hdecode.inv hmode h
  | load _ hmode hload => exact hload.inv hmode h

/-- Settles O32: each case of a step's inversion keeps the invariant. -/
theorem everyStepKeepsInvariant : Obligations.EveryStepKeepsInvariant := by
  intro s t h hstep
  cases machineStep_of_step hstep with
  | host m rest hhost hready => exact hostMove_inv hready (h.withHost rest)
  | block l t hblock => exact hblock.inv (h.withHost l)

/-- Settles O31: the block is idle, memory lists nothing, and the reset configuration is that of log entry 5. -/
theorem invariantHoldsAtReset : Obligations.InvariantHoldsAtReset := by
  have hsound : Sound State.reset :=
    ⟨by decide, by decide, reset_memory_wf, nofun, by decide, by decide, nofun⟩
  exact hsound.inv_of_quiet (.inl rfl)

end Sys2Proof.Machine
end

section
/-! PROOF. Memory: what reads and writes do, and which steps can write: O34, O42. -/

namespace Sys2Proof.Machine

/-! ### The steps that write no memory -/

/-- A step of a decode keeps memory and takes nothing from the stream (R100). -/
theorem DecodeStep.mem_inp_eq {s t : State} (h : DecodeStep s t) : t.mem = s.mem ∧ t.inp = s.inp := by
  cases h with
  | skip => exact ⟨rfl, rfl⟩
  | done d r n =>
    obtain ⟨-, hmem, hinp, -⟩ := finishDecode_frame d { s with dec := r, draws := n }
    exact ⟨hmem, hinp⟩

/-- A step of the block outside a load keeps memory and the stream (R100, R160). -/
theorem BlockStep.load_or_mem_inp_eq {s t : State} (h : BlockStep s t) :
    s.opmode = .load ∨ t.mem = s.mem ∧ t.inp = s.inp := by
  cases h with
  | idle => exact .inr ⟨rfl, rfl⟩
  | decode _ _ hstep => exact .inr hstep.mem_inp_eq
  | load _ hmode => exact .inl hmode

theorem startDisasm_mem_inp (start stop : Addr) (s : State) :
    (startDisasm start stop s).mem = s.mem ∧ (startDisasm start stop s).inp = s.inp := by
  rcases startDisasm_cases start stop s with ⟨_, e⟩ | e <;> rw [e]
  · exact ⟨rfl, rfl⟩
  · obtain ⟨-, hmem, hinp, -⟩ := driverNext_frame { s with
      opmode := .disasm, drv := ⟨start, stop, start.toNat⟩, out := s.out ++ [.org start] }
    exact ⟨hmem, hinp⟩

/-! ### The host's moves -/

/-- The host's only move that writes memory is its memory write (R59). -/
theorem hostMove_mem (m : HostMove) (s : State) : (hostMove m s).mem = s.mem ∨ ∃ a v, m = .writeByte a v := by
  cases m with
  | writeByte a v => exact .inr ⟨a, v, rfl⟩
  | requestDisasm start stop => exact .inl (startDisasm_mem_inp start stop s).1
  | _ => exact .inl rfl

/-- No move of the host takes an item from the stream (R33, R182). -/
theorem hostMove_inp (m : HostMove) (s : State) : ∃ l, (hostMove m s).inp = s.inp ++ l := by
  have hkept : ∀ {t : State}, t.inp = s.inp → ∃ l, t.inp = s.inp ++ l := fun e => ⟨[], e.trans (List.append_nil _).symm⟩
  cases m with
  | deliver c => exact ⟨[.char (normalizeChar c)], rfl⟩
  | endStream => exact ⟨[.eos], rfl⟩
  | writeByte a v => rcases hostWrite_cases a v s with ⟨-, e⟩ | ⟨-, e⟩ <;> exact hkept (by rw [hostMove, e])
  | requestDisasm start stop => exact hkept (startDisasm_mem_inp start stop s).2
  | _ => exact hkept rfl

/-- Settles O34: outside a load a step of the block writes neither memory nor the stream, and of the host's moves only
the memory write, which is made with the block idle, writes memory. -/
theorem onlyLoadAndHostWriteMemory : Obligations.OnlyLoadAndHostWriteMemory := by
  intro s t h
  cases machineStep_of_step h with
  | host m rest hhost hready =>
    refine ⟨?_, .inr (hostMove_inp m { s with host := rest })⟩
    rcases hostMove_mem m { s with host := rest } with hkept | ⟨a, v, rfl⟩
    · exact .inl hkept
    · have hidle : s.opmode = .idle := eq_of_beq hready
      exact .inr (.inr ⟨hidle, a, v, rest, hhost⟩)
  | block l _ hstep =>
    rcases hstep.load_or_mem_inp_eq with hload | ⟨hmem, hinp⟩
    · exact ⟨.inr (.inl hload), .inl hload⟩
    · exact ⟨.inl hmem, .inr ⟨[], hinp.trans (List.append_nil _).symm⟩⟩

/-! ### One read and one write -/

/-- A write inside the valid window is read back, and the read changes nothing (R51, R61). -/
theorem memRead_write_same {a : Addr} {s : State} (h : inWindow s.cfg a = true) (v : Byte) :
    memRead a { s with mem := s.mem.write a.toNat v } = (v, { s with mem := s.mem.write a.toNat v }) := by
  have hread := memRead_inside (s := { s with mem := s.mem.write a.toNat v }) h
  rwa [read_write, if_pos rfl] at hread

/-- Settles O42: the two cases of a read and of a write, by whether the address is in the valid window. -/
theorem memoryReadsAndWrites : Obligations.MemoryReadsAndWrites := by
  intro s a v line
  rcases memWrite_cases line a v s with ⟨hin, hwrite⟩ | ⟨hout, hwrite⟩
  · refine ⟨fun _ => ⟨memRead_inside hin, _, hwrite, rfl, ?_, ?_, ?_⟩, fun hout => ?_⟩
    · exact write_wf s.mem a.toNat v
    · exact stored_write s.mem a.toNat v
    · exact memRead_write_same hin v
    · exact absurd (hout.symm.trans hin) (by decide)
  · refine ⟨fun hin => ?_, fun _ => ⟨hwrite, memRead_outside hout⟩⟩
    exact absurd (hout.symm.trans hin) (by decide)

end Sys2Proof.Machine
end

section
/-! PROOF. Opcode bytes: the classes of R71, the suffix key and the mode field, and decode against encode: O20, O22,
O24, O25. -/

namespace Sys2Proof.Machine

/-! ### The suffix key and the mode field -/

/-- The family field's bits are among the suffix key's (R70). -/
theorem suffixKey_and_familyMask (b : Byte) : suffixKey b &&& familyMask = b &&& familyMask :=
  BitVec.and_assoc b 0xCF familyMask

theorem modeBits_modeField (b : Byte) : modeBits (modeField b) = b &&& 0x30 := by
  revert b; decide

theorem familyByte_suffixKey_modeField (b : Byte) : familyByte (suffixKey b) (modeField b) = b :=
  calc suffixKey b ||| modeBits (modeField b)
      = b &&& 0xCF ||| b &&& 0x30 := by rw [modeBits_modeField, suffixKey]
    _ = b &&& (0xCF ||| 0x30) := BitVec.and_or_distrib_left.symm
    _ = b := BitVec.and_allOnes

/-- Settles O25: the two masks of R70 overlap in the family field, and the key's and the mode field's bits
are all eight. -/
theorem suffixKeyAndModeMakeTheByte : Obligations.SuffixKeyAndModeMakeTheByte := fun b =>
  ⟨(suffixKey_and_familyMask b).symm, (familyByte_suffixKey_modeField b).symm⟩

/-- The mode's bits are outside the suffix key. -/
theorem suffixKey_familyByte {key : Byte} (hkey : suffixKey key = key) (m : Mode) :
    suffixKey (familyByte key m) = key := by
  have hmode : modeBits m &&& 0xCF = 0 := by cases m <;> rfl
  calc (key ||| modeBits m) &&& 0xCF
      = key &&& 0xCF ||| modeBits m &&& 0xCF := BitVec.and_or_distrib_right
    _ = key := by rw [hmode, show key &&& 0xCF = key from hkey]; exact BitVec.or_zero

theorem modeField_familyByte {key : Byte} (hkey : suffixKey key = key) (m : Mode) :
    modeField (familyByte key m) = m := by
  have hbits : familyByte key m &&& 0x30 = modeBits m := by
    have hclear : key &&& 0x30 = 0 := by rw [← hkey, suffixKey, BitVec.and_assoc]; exact BitVec.and_zero
    calc (key ||| modeBits m) &&& 0x30
        = key &&& 0x30 ||| modeBits m &&& 0x30 := BitVec.and_or_distrib_right
      _ = modeBits m := by rw [hclear]; cases m <;> rfl
  unfold modeField
  rw [hbits]
  cases m <;> rfl

/-! ### The classes of R71 -/

/-- A byte's class is that of its suffix key, but for the byte 0xCD, the one escape among the family fields (R72). -/
theorem classify_suffixKey {b : Byte} (hb : b ≠ 0xCD) (hkey : suffixKey b ≠ 0xCD) :
    classify b = classify (suffixKey b) := by
  have hidem : suffixKey (suffixKey b) = suffixKey b := BitVec.and_assoc b 0xCF 0xCF
  simp only [classify, suffixKey_and_familyMask, hidem, if_neg hb, if_neg hkey]

theorem classify_familyByte {key : Byte} {fam : Family} (hkey : suffixKey key = key) (hfam : classify key = .family fam)
    (m : Mode) : classify (familyByte key m) = .family fam := by
  have hsuffix := suffixKey_familyByte hkey m
  have hne : key ≠ 0xCD := by rintro rfl; cases hfam
  have hbyte : familyByte key m ≠ 0xCD := fun h => hne (by rw [← hsuffix, h]; rfl)
  rw [classify_suffixKey hbyte (by rwa [hsuffix]), hsuffix, hfam]

theorem classify_of_escape_field {b : Byte} (h : b &&& familyMask = 0x00) : classify b = .escape := by
  simp [classify, h]

/-- The byte 0xCD has the family field of the store family. -/
theorem ne_cd_of_escape_field {b : Byte} (h : b &&& familyMask = 0x00) : b ≠ 0xCD := by
  rintro rfl; exact absurd h (by decide)

theorem classify_of_noMatch_field {b : Byte}
    (h : b &&& familyMask = 0x01 ∨ b &&& familyMask = 0x04 ∨ b &&& familyMask = 0x05) :
    classify b = .noMatch := by
  rcases h with h | h | h <;> simp [classify, h]

theorem classify_escape_iff (b : Byte) : classify b = .escape ↔ b = 0xCD ∨ b &&& familyMask = 0x00 := by
  constructor
  · intro h
    by_cases hb : b = 0xCD
    · exact .inl hb
    · exact .inr (familyField_of_escape h hb)
  · rintro (rfl | h)
    · exact classify_cd
    · exact classify_of_escape_field h

theorem classify_noMatch_iff (b : Byte) :
    classify b = .noMatch ↔ b &&& familyMask = 0x01 ∨ b &&& familyMask = 0x04 ∨ b &&& familyMask = 0x05 :=
  ⟨familyField_of_noMatch, classify_of_noMatch_field⟩

theorem exists_family_iff (b : Byte) :
    (∃ f, classify b = .family f) ↔ classify b ≠ .escape ∧ classify b ≠ .noMatch := by
  cases classify b <;> simp

/-- Bit 7 of the family field is that of the byte: the family fields are those from 0x80 up (R71). -/
theorem family_iff_ge (b : Byte) : (∃ f, classify b = .family f) ↔ 0x80 ≤ b ∧ b ≠ 0xCD := by
  rw [exists_family_iff, Ne, Ne, classify_escape_iff, classify_noMatch_iff]
  revert b; decide

/-- The 256 bytes, in rising order. -/
def allBytes : List Byte := (List.finRange 256).map BitVec.ofFin

/-- A list that is the bytes of a class, in order, holds just the bytes of the class. -/
theorem classify_iff_mem {c : ByteClass} {l : List Byte} (h : allBytes.filter (fun b => classify b == c) = l)
    (b : Byte) : classify b = c ↔ b ∈ l := by
  have hall : b ∈ allBytes := List.mem_map.mpr ⟨b.toFin, List.mem_finRange _, rfl⟩
  rw [← h, List.mem_filter, beq_iff_eq]
  exact (and_iff_right hall).symm

/-- Settles O24: each list is the bytes of its class, in order, and the family bytes are the others from 0x80 up. -/
theorem escapeAndNoMatchBytesAreListed : Obligations.EscapeAndNoMatchBytesAreListed :=
  ⟨rfl, rfl, fun b => ⟨classify_iff_mem (by decide) b, classify_iff_mem (by decide) b, family_iff_ge b⟩⟩

/-! ### Well-formed instructions -/

/-- A row whose mnemonic has the register letter `x` (R105, R124). -/
@[simp] theorem wfAt_ldx_iff (pb : Byte) (m : Mode) : (Instr.ldx m).wfAt pb = true ↔ pb = 0x00 ∨ pb = 0xCD := by
  simp [Instr.wfAt, Instr.wf]

@[simp] theorem wfAt_stx_iff (pb : Byte) (m : Mode) : (Instr.stx m).wfAt pb = true ↔ pb = 0x00 ∨ pb = 0xCD := by
  simp [Instr.wfAt, Instr.wf]

@[simp] theorem wfAt_ldy_iff (pb : Byte) (m : Mode) : (Instr.ldy m).wfAt pb = true ↔ pb = 0x18 := by
  simp [Instr.wfAt, Instr.wf]

@[simp] theorem wfAt_sty_iff (pb : Byte) (m : Mode) : (Instr.sty m).wfAt pb = true ↔ pb = 0x18 := by
  simp [Instr.wfAt, Instr.wf]

@[simp] theorem wfAt_ldCE_iff (pb : Byte) (m : Mode) :
    (Instr.ldCE m).wfAt pb = true ↔ ¬ (pb = 0x00 ∨ pb = 0xCD) ∧ pb ≠ 0x18 := by
  simp [Instr.wfAt, Instr.wf]

@[simp] theorem wfAt_stCF_iff (pb : Byte) (m : Mode) :
    (Instr.stCF m).wfAt pb = true ↔ ¬ (pb = 0x00 ∨ pb = 0xCD) ∧ pb ≠ 0x18 := by
  simp [Instr.wfAt, Instr.wf]

@[simp] theorem wfAt_std_iff (pb : Byte) (m : Mode) : (Instr.std m).wfAt pb = true ↔ m ≠ .imm := by
  simp [Instr.wfAt, Instr.wf]

@[simp] theorem wfAt_esc_iff (pb b : Byte) : (Instr.esc b).wfAt pb = true ↔ b &&& familyMask = 0x00 := by
  simp [Instr.wfAt, Instr.wf, familyMask]

@[simp] theorem wfAt_null01_iff (pb b : Byte) : (Instr.null01 b).wfAt pb = true ↔ b &&& familyMask = 0x01 := by
  simp [Instr.wfAt, Instr.wf, familyMask]

@[simp] theorem wfAt_null04_iff (pb b : Byte) : (Instr.null04 b).wfAt pb = true ↔ b &&& familyMask = 0x04 := by
  simp [Instr.wfAt, Instr.wf, familyMask]

@[simp] theorem wfAt_null05_iff (pb b : Byte) : (Instr.null05 b).wfAt pb = true ↔ b &&& familyMask = 0x05 := by
  simp [Instr.wfAt, Instr.wf, familyMask]

/-! ### From an instruction to its byte and back -/

/-- The row of a family byte with suffix key `v` and mode `m` (R120 to R143). -/
def decodeRow (fam : Family) (pb v : Byte) (m : Mode) : Instr :=
  match fam with
  | .ld => decodeLd pb v m
  | .st => decodeSt pb v m
  | .sub => decodeSub v m
  | .ad => decodeAd v m

theorem decodeOpcode_of_family {b : Byte} {fam : Family} (h : classify b = .family fam) (pb : Byte) :
    decodeOpcode pb b = decodeRow fam pb (suffixKey b) (modeField b) := by
  unfold decodeOpcode
  rw [h]
  cases fam <;> rfl

theorem decodeOpcode_familyByte {key : Byte} {fam : Family} (hkey : suffixKey key = key)
    (hfam : classify key = .family fam) (pb : Byte) (m : Mode) :
    decodeOpcode pb (familyByte key m) = decodeRow fam pb key m := by
  rw [decodeOpcode_of_family (classify_familyByte hkey hfam m), suffixKey_familyByte hkey, modeField_familyByte hkey]

theorem decodeOpcode_esc {b : Byte} (h : b &&& familyMask = 0x00) (pb : Byte) : decodeOpcode pb b = .esc b := by
  unfold decodeOpcode
  rw [classify_of_escape_field h]
  exact if_neg (ne_cd_of_escape_field h)

theorem decodeOpcode_null {b : Byte}
    (h : b &&& familyMask = 0x01 ∨ b &&& familyMask = 0x04 ∨ b &&& familyMask = 0x05) (pb : Byte) :
    decodeOpcode pb b =
      if b &&& familyMask = 0x01 then .null01 b else if b &&& familyMask = 0x04 then .null04 b else .null05 b := by
  unfold decodeOpcode
  rw [classify_of_noMatch_field h]

theorem xyRow_of_x {pb : Byte} (h : pb = 0x00 ∨ pb = 0xCD) (x y other : Instr) : xyRow pb x y other = x := if_pos h

theorem xyRow_of_other {pb : Byte} (hx : ¬ (pb = 0x00 ∨ pb = 0xCD)) (hy : pb ≠ 0x18) (x y other : Instr) :
    xyRow pb x y other = other := by
  unfold xyRow
  rw [if_neg hx, if_neg hy]

/-- An instruction that is encoded as the byte of a family's key and its mode decodes back, where that key's row is
it. -/
theorem decode_encode_family {key pb : Byte} {fam : Family} {m : Mode} {i : Instr} (rest : List Byte)
    (hencode : encode i = [familyByte key m]) (hkey : suffixKey key = key) (hfam : classify key = .family fam)
    (hrow : decodeRow fam pb key m = i) : decode (.opcode pb) (encode i ++ rest) = .ok (i, rest) := by
  rw [hencode]
  exact congrArg (fun j => Except.ok (j, rest)) ((decodeOpcode_familyByte hkey hfam pb m).trans hrow)

/-- Likewise where the byte itself is the operand, or the instruction has none. -/
theorem decode_encode_byte {pb b : Byte} {i : Instr} (rest : List Byte) (hencode : encode i = [b])
    (hrow : decodeOpcode pb b = i) : decode (.opcode pb) (encode i ++ rest) = .ok (i, rest) := by
  rw [hencode]
  exact congrArg (fun j => Except.ok (j, rest)) hrow

/-- Settles O20, by the instruction's row: a family row by its suffix key, the rows of the keys 0xCE and 0xCF by the
preceding byte as well, `std` in the three modes of R129, and an escape or a no-match row by its mask class. -/
theorem opcodeEncodingRoundTrips : Obligations.OpcodeEncodingRoundTrips := by
  intro pb i rest hrecord hwf
  cases i with
  | ldaa m | ldab m | ldd m | lds m | ld84 m | ld8C m | ldC4 m | staa m | stab m | sts m | st85 m | st8D m | stC5 m
  | suba m | subb m | subd m | sub82 m | sub88 m | sub8A m | subC2 m | subC8 m | subCA m
  | adda m | addb m | addd m | adca m | adcb m | ad81 m | adC1 m =>
    exact decode_encode_family rest rfl rfl rfl rfl
  | ldx m | stx m =>
    exact decode_encode_family rest rfl rfl rfl (xyRow_of_x (by simpa using hwf) ..)
  | ldy m | sty m =>
    have hpb : pb = 0x18 := by simpa using hwf
    subst hpb
    exact decode_encode_family rest rfl rfl rfl rfl
  | ldCE m | stCF m =>
    obtain ⟨hx, hy⟩ : ¬ (pb = 0x00 ∨ pb = 0xCD) ∧ pb ≠ 0x18 := by simpa using hwf
    exact decode_encode_family rest rfl rfl rfl (xyRow_of_other hx hy ..)
  | std m =>
    refine decode_encode_byte rest rfl ?_
    cases m with
    | imm => cases hwf
    | dir | idx | ext => rfl
  | escCD => rfl
  | esc b =>
    exact decode_encode_byte rest rfl (decodeOpcode_esc ((wfAt_esc_iff pb b).mp hwf) pb)
  | null01 b | null04 b | null05 b =>
    simp only [wfAt_null01_iff, wfAt_null04_iff, wfAt_null05_iff] at hwf
    refine decode_encode_byte rest rfl ((decodeOpcode_null (by simp [hwf]) pb).trans ?_)
    rw [hwf]; rfl
  | s1 | s9 => cases hrecord

/-! ### From a byte to its instruction and back -/

/-- The instruction `i` is a reading of the byte `b` after the preceding byte `pb`. -/
def Reads (pb b : Byte) (i : Instr) : Prop := i.wfAt pb = true ∧ encode i = [b] ∧ i.isRecord = false

/-- The suffix keys of a family's rows (R74). -/
def familyKeys : Family → List Byte
  | .ld => [0x84, 0x86, 0x8C, 0x8E, 0xC4, 0xC6, 0xCC, 0xCE]
  | .st => [0x85, 0x87, 0x8D, 0x8F, 0xC5, 0xC7, 0xCD, 0xCF]
  | .sub => [0x80, 0x82, 0x83, 0x88, 0x8A, 0xC0, 0xC2, 0xC8, 0xCA]
  | .ad => [0x81, 0x89, 0x8B, 0xC1, 0xC3, 0xC9, 0xCB]

theorem suffixKey_mem_familyKeys {b : Byte} {fam : Family} (h : classify b = .family fam) :
    suffixKey b ∈ familyKeys fam := by
  revert b; cases fam <;> decide

/-- Of the three rows of an `x`/`y` key, the one selected is well-formed after `pb` (R105). -/
theorem reads_xyRow {pb b : Byte} {x y other : Instr} (hx : pb = 0x00 ∨ pb = 0xCD → Reads pb b x)
    (hy : pb = 0x18 → Reads pb b y) (hother : ¬ (pb = 0x00 ∨ pb = 0xCD) → pb ≠ 0x18 → Reads pb b other) :
    Reads pb b (xyRow pb x y other) := by
  unfold xyRow
  split_ifs with h h'
  · exact hx h
  · exact hy h'
  · exact hother h h'

theorem reads_decodeLd {v : Byte} (hv : v ∈ familyKeys .ld) (pb : Byte) (m : Mode) :
    Reads pb (familyByte v m) (decodeLd pb v m) := by
  have hxy : Reads pb (familyByte 0xCE m) (xyRow pb (.ldx m) (.ldy m) (.ldCE m)) :=
    reads_xyRow (fun h => ⟨(wfAt_ldx_iff pb m).mpr h, rfl, rfl⟩) (fun h => ⟨(wfAt_ldy_iff pb m).mpr h, rfl, rfl⟩)
      (fun hx hy => ⟨(wfAt_ldCE_iff pb m).mpr ⟨hx, hy⟩, rfl, rfl⟩)
  revert v
  simp only [familyKeys, List.forall_mem_cons]
  exact ⟨⟨rfl, rfl, rfl⟩, ⟨rfl, rfl, rfl⟩, ⟨rfl, rfl, rfl⟩, ⟨rfl, rfl, rfl⟩, ⟨rfl, rfl, rfl⟩, ⟨rfl, rfl, rfl⟩,
    ⟨rfl, rfl, rfl⟩, hxy, nofun⟩

theorem reads_decodeSt {v : Byte} {m : Mode} (hv : v ∈ familyKeys .st) (hstd : v = 0xCD → m ≠ .imm) (pb : Byte) :
    Reads pb (familyByte v m) (decodeSt pb v m) := by
  have hxy : Reads pb (familyByte 0xCF m) (xyRow pb (.stx m) (.sty m) (.stCF m)) :=
    reads_xyRow (fun h => ⟨(wfAt_stx_iff pb m).mpr h, rfl, rfl⟩) (fun h => ⟨(wfAt_sty_iff pb m).mpr h, rfl, rfl⟩)
      (fun hx hy => ⟨(wfAt_stCF_iff pb m).mpr ⟨hx, hy⟩, rfl, rfl⟩)
  have hstdReads (h : m ≠ .imm) : Reads pb (familyByte 0xCD m) (.std m) :=
    ⟨(wfAt_std_iff pb m).mpr h, rfl, rfl⟩
  revert v
  simp only [familyKeys, List.forall_mem_cons]
  exact ⟨fun _ => ⟨rfl, rfl, rfl⟩, fun _ => ⟨rfl, rfl, rfl⟩, fun _ => ⟨rfl, rfl, rfl⟩, fun _ => ⟨rfl, rfl, rfl⟩,
    fun _ => ⟨rfl, rfl, rfl⟩, fun _ => ⟨rfl, rfl, rfl⟩, fun h => hstdReads (h trivial), fun _ => hxy, nofun⟩

theorem reads_decodeSub {v : Byte} (hv : v ∈ familyKeys .sub) (pb : Byte) (m : Mode) :
    Reads pb (familyByte v m) (decodeSub v m) := by
  revert v
  simp only [familyKeys, List.forall_mem_cons]
  exact ⟨⟨rfl, rfl, rfl⟩, ⟨rfl, rfl, rfl⟩, ⟨rfl, rfl, rfl⟩, ⟨rfl, rfl, rfl⟩, ⟨rfl, rfl, rfl⟩, ⟨rfl, rfl, rfl⟩,
    ⟨rfl, rfl, rfl⟩, ⟨rfl, rfl, rfl⟩, ⟨rfl, rfl, rfl⟩, nofun⟩

theorem reads_decodeAd {v : Byte} (hv : v ∈ familyKeys .ad) (pb : Byte) (m : Mode) :
    Reads pb (familyByte v m) (decodeAd v m) := by
  revert v
  simp only [familyKeys, List.forall_mem_cons]
  exact ⟨⟨rfl, rfl, rfl⟩, ⟨rfl, rfl, rfl⟩, ⟨rfl, rfl, rfl⟩, ⟨rfl, rfl, rfl⟩, ⟨rfl, rfl, rfl⟩, ⟨rfl, rfl, rfl⟩,
    ⟨rfl, rfl, rfl⟩, nofun⟩

theorem reads_decodeRow {b : Byte} {fam : Family} (h : classify b = .family fam) (pb : Byte) :
    Reads pb b (decodeRow fam pb (suffixKey b) (modeField b)) := by
  have hkey := suffixKey_mem_familyKeys h
  suffices Reads pb (familyByte (suffixKey b) (modeField b)) (decodeRow fam pb (suffixKey b) (modeField b)) by
    rwa [familyByte_suffixKey_modeField] at this
  cases fam with
  | ld => exact reads_decodeLd hkey pb _
  | st =>
    refine reads_decodeSt hkey (fun hcd himm => ?_) pb
    rw [eq_cd_of_key_mode hcd himm, classify_cd] at h
    cases h
  | sub => exact reads_decodeSub hkey pb _
  | ad => exact reads_decodeAd hkey pb _

/-- Settles O22, by the byte's class. -/
theorem everyByteHasOneReading : Obligations.EveryByteHasOneReading := by
  intro pb b
  change Reads pb b (decodeOpcode pb b)
  cases hclass : classify b with
  | family fam =>
    rw [decodeOpcode_of_family hclass]
    exact reads_decodeRow hclass pb
  | escape =>
    rcases (classify_escape_iff b).mp hclass with rfl | hfield
    · exact ⟨rfl, rfl, rfl⟩
    · rw [decodeOpcode_esc hfield]
      exact ⟨(wfAt_esc_iff pb b).mpr hfield, rfl, rfl⟩
  | noMatch =>
    have hfield := (classify_noMatch_iff b).mp hclass
    rw [decodeOpcode_null hfield]
    rcases hfield with h | h | h <;> rw [h]
    · exact ⟨(wfAt_null01_iff pb b).mpr h, rfl, rfl⟩
    · exact ⟨(wfAt_null04_iff pb b).mpr h, rfl, rfl⟩
    · exact ⟨(wfAt_null05_iff pb b).mpr h, rfl, rfl⟩

end Sys2Proof.Machine
end

section
/-! PROOF. Records, in the window and as bytes, and the words of both encodings written out: O21, O23, O26. -/

namespace Sys2Proof.Machine

theorem decodeWindow_s1 {w : Window} (h0 : w.c0 = charS) (h1 : w.c1 = char1) :
    decodeWindow w = .ok (.s1 w.c2 w.c3 w.c4 w.c5 w.c6 w.c7) := if_pos ⟨h0, h1⟩

theorem decodeWindow_s9 {w : Window} (h0 : w.c0 = charS) (h1 : w.c1 = char9) :
    decodeWindow w = .ok (.s9 w.c2 w.c3 w.c4 w.c5 w.c6 w.c7) := by
  have hnot : ¬ (w.c0 = charS ∧ w.c1 = char1) := by rw [h1]; exact fun h => absurd h.2 (by decide)
  unfold decodeWindow
  rw [if_neg hnot, if_pos ⟨h0, h1⟩]

theorem decodeWindow_reject {w : Window} (h : w.c0 ≠ charS ∨ (w.c1 ≠ char1 ∧ w.c1 ≠ char9)) :
    decodeWindow w = .error .notARecord := by
  unfold decodeWindow
  rw [if_neg (by tauto), if_neg (by tauto)]

/-- Settles O23: the three outcomes of the window's two tests. -/
theorem windowHoldsRecordOrIsRejected : Obligations.WindowHoldsRecordOrIsRejected := fun _ =>
  ⟨decodeWindow_s1, decodeWindow_s9, decodeWindow_reject⟩

theorem decode_record_of_window {w : Window} {i : Instr} (h : decodeWindow w = .ok i) (rest : List Byte) :
    decode .record (w.c0 :: w.c1 :: w.c2 :: w.c3 :: w.c4 :: w.c5 :: w.c6 :: w.c7 :: rest) = .ok (i, rest) := by
  simp only [decode, h]

/-- Settles O21: the encoding of a record is the window it is read from. -/
theorem recordEncodingRoundTrips : Obligations.RecordEncodingRoundTrips := by
  intro i rest hrecord
  cases i with
  | s1 c2 c3 c4 c5 c6 c7 =>
    exact decode_record_of_window (w := ⟨charS, char1, c2, c3, c4, c5, c6, c7⟩) (decodeWindow_s1 rfl rfl) rest
  | s9 c2 c3 c4 c5 c6 c7 =>
    exact decode_record_of_window (w := ⟨charS, char9, c2, c3, c4, c5, c6, c7⟩) (decodeWindow_s9 rfl rfl) rest
  | _ => cases hrecord

/-- Settles O26: each word is evaluated by the decoder. -/
theorem writtenWordsDecodeRight : Obligations.WrittenWordsDecodeRight :=
  ⟨rfl, rfl, rfl, rfl, rfl, rfl, rfl, rfl, rfl, rfl, rfl⟩

end Sys2Proof.Machine
end

section
/-! PROOF. Which instructions run, and that every step goes on: O16, O30. -/

namespace Sys2Proof.Machine

/-- A meaning guarded by the check that its term is encodable runs exactly when the check holds. -/
theorem runs_guarded {p : Prop} [Decidable p] {c : Bool} (hc : c = true ↔ p) (t : State) :
    (c = true → Runs (if p then .next t else .fault .notEncodable)) ∧
    (c = false → (if p then .next t else .fault .notEncodable : Host.Outcome State Fault Refusal) =
      .fault .notEncodable) := by
  constructor <;> intro h
  · exact ⟨t, if_pos (hc.mp h)⟩
  · exact if_neg (by rw [← hc, h]; decide)

theorem execS1_runs (c2 c3 c4 c5 c6 c7 : Byte) (s : State) : Runs (execS1 c2 c3 c4 c5 c6 c7 s) := by
  unfold execS1
  split <;> exact ⟨_, rfl⟩

/-- Settles O16, by the instruction: the family rows and the records are always well-formed and have no other outcome;
the meanings of `std` and of the mask classes are guarded by the check that `Instr.wf` makes. -/
theorem execRunsEveryEncodableInstruction : Obligations.ExecRunsEveryEncodableInstruction := by
  intro i s
  cases i with
  | std m =>
    unfold exec execStd
    cases m with
    | imm => exact ⟨nofun, fun _ => rfl⟩
    | dir | idx | ext => exact ⟨fun _ => ⟨_, rfl⟩, nofun⟩
  | esc b | null01 b | null04 b | null05 b => exact runs_guarded beq_iff_eq _
  | s1 c2 c3 c4 c5 c6 c7 => exact ⟨fun _ => execS1_runs c2 c3 c4 c5 c6 c7 s, nofun⟩
  | _ => exact ⟨fun _ => ⟨_, rfl⟩, nofun⟩

/-- Settles O30: the inversion of a step has no case that stops. -/
theorem everyStepGoesOn : Obligations.EveryStepGoesOn := fun s =>
  (step_cases s).imp fun _ ⟨hnext, _⟩ => hnext

end Sys2Proof.Machine
end

section
/-! PROOF. The suffix table, the register letters and index texts, and the hex digits: O27, O48. -/

namespace Sys2Proof.Machine

/-! ### The suffix table -/

/-- The suffix and the is16Bit mark of a key under the spec's table (R74), for the keys whose suffix is fixed. -/
def specSuffix (v : Byte) : Suffix × Bool :=
  match specSuffixTable.find? (fun r => r.key == v) with
  | some r => (r.sfx, r.is16)
  | none => (.bare, false)

/-- A key other than 0xCE and 0xCF has the suffix and the mark of the table, whatever byte precedes it (R104). -/
theorem suffix_of_specTable {c : Config} (htable : c.suffixTable = specSuffixTable) {v : Byte}
    (hv : v ≠ 0xCE ∧ v ≠ 0xCF) (pb : Byte) : (suffixOf c v pb, is16Mark c v) = specSuffix v := by
  have hxy : ¬ (v = 0xCE ∨ v = 0xCF) := not_or.mpr hv
  unfold suffixOf is16Mark specSuffix
  rw [if_neg hxy, if_neg hxy, htable]
  cases specSuffixTable.find? (fun r => r.key == v) <;> rfl

/-- The two keys whose suffix is the register letter (R105). -/
theorem suffix_of_xyKey (c : Config) {v : Byte} (hv : v = 0xCE ∨ v = 0xCF) (pb : Byte) :
    suffixOf c v pb = regLetter pb ∧ is16Mark c v = c.xyIs16 :=
  ⟨if_pos hv, if_pos hv⟩

theorem regLetter_other {pb : Byte} (h00 : pb ≠ 0x00) (hCD : pb ≠ 0xCD) (h18 : pb ≠ 0x18) : regLetter pb = .bare := by
  unfold regLetter
  rw [if_neg (not_or.mpr ⟨h00, hCD⟩), if_neg h18]

theorem indexText_other {pb : Byte} (h00 : pb ≠ 0x00) (h1A : pb ≠ 0x1A) (h18 : pb ≠ 0x18) (hCD : pb ≠ 0xCD) :
    indexText pb = "" := by
  unfold indexText
  rw [if_neg (not_or.mpr ⟨h00, h1A⟩), if_neg (not_or.mpr ⟨h18, hCD⟩)]

/-- Settles O27: a row of the list is a row of the spec's table, or a key it does not list. -/
theorem suffixTableRowsHold : Obligations.SuffixTableRowsHold := by
  intro c pb htable
  refine ⟨fun r hr => ?_, fun v hv => suffix_of_xyKey c hv pb, rfl, rfl, rfl, regLetter_other, rfl, rfl, rfl, rfl,
    indexText_other⟩
  obtain ⟨hxy, hspec⟩ : (r.1 ≠ 0xCE ∧ r.1 ≠ 0xCF) ∧ specSuffix r.1 = r.2 := by
    clear htable
    revert r
    decide
  exact Prod.ext_iff.mp ((suffix_of_specTable htable hxy pb).trans hspec)

/-! ### Hex digits -/

theorem hexVal_decimal {c : Byte} (hlo : 0x30 ≤ c) (hhi : c ≤ 0x39) : hexVal c = some (c - 0x30) := if_pos ⟨hlo, hhi⟩

theorem hexVal_letter {c : Byte} (hlo : 0x41 ≤ c) (hhi : c ≤ 0x46) : hexVal c = some (c - 0x41 + 10) := by
  have hnot : ¬ (0x30 ≤ c ∧ c ≤ 0x39) := by bv_omega
  have hvalue : c - 0x37 = c - 0x41 + 10 := by bv_omega
  unfold hexVal
  rw [if_neg hnot, if_pos ⟨hlo, hhi⟩, hvalue]

theorem hexVal_other {c : Byte} (hdecimal : ¬ (0x30 ≤ c ∧ c ≤ 0x39)) (hletter : ¬ (0x41 ≤ c ∧ c ≤ 0x46)) :
    hexVal c = none := by
  unfold hexVal
  rw [if_neg hdecimal, if_neg hletter]

theorem hexPair_of_digits {c1 c2 h l : Byte} (h1 : hexVal c1 = some h) (h2 : hexVal c2 = some l) :
    hexPair c1 c2 = some (16 * h + l) := by
  simp only [hexPair, h1, h2]

/-- A pair fails where either of its digits does (R84). -/
theorem hexPair_eq_none {c1 c2 : Byte} (h : hexVal c1 = none ∨ hexVal c2 = none) : hexPair c1 c2 = none := by
  unfold hexPair
  split
  · next h1 h2 => rw [h1, h2] at h; simp at h
  · rfl

/-- Settles O48: the three ranges of a character, and a pair by its two digits. -/
theorem hexDigitsAndPairs : Obligations.HexDigitsAndPairs :=
  ⟨fun _ => ⟨hexVal_decimal, hexVal_letter, hexVal_other⟩, fun _ _ _ _ => hexPair_of_digits, fun _ _ => hexPair_eq_none⟩

end Sys2Proof.Machine
end

section
/-! PROOF. The operand stage over the bytes its reads return, and a row of the opcode table: what O1 to O12 rest on. -/

namespace Sys2Proof.Machine

/-! ### The bytes a decode reads -/

/-- What a read answers: a byte it may return, and no change but the draw of a read outside the valid window (R51). -/
theorem memRead_mayRead (a : Addr) (s : State) :
    ∃ b n, memRead a s = (b, { s with draws := n }) ∧ MayRead s a b ∧ (inWindow s.cfg a = true → n = s.draws) := by
  cases hin : inWindow s.cfg a with
  | true => exact ⟨_, s.draws, memRead_inside hin, fun _ => rfl, fun _ => rfl⟩
  | false => exact ⟨_, _, memRead_outside hin, fun h => absurd (hin.symm.trans h) (by decide), nofun⟩

/-- Some byte may be read at every address: the one memory holds. -/
theorem mayRead_held (s : State) (a : Addr) : MayRead s a (s.mem.read a.toNat) := fun _ => rfl

/-- The render of one operand byte (R106). -/
theorem renderOperand_one {m : Mode} {s : State} (hone : rendersTwo m s.dec.is16 = false) (q : Addr) :
    ∃ b n, renderOperand m q s = { s with
        dec := { s.dec with ot := operandLead m ++ hex2 b ++ operandTail m s.dec.pb, opn := 1 }, draws := n } ∧
      MayRead s q b ∧ (inWindow s.cfg q = true → n = s.draws) := by
  obtain ⟨b, n, hread, hb, hn⟩ := memRead_mayRead q s
  refine ⟨b, n, ?_, hb, hn⟩
  unfold renderOperand
  simp only [hone, hread]
  rfl

/-- The render of two operand bytes, in memory order (R106). -/
theorem renderOperand_two {m : Mode} {s : State} (htwo : rendersTwo m s.dec.is16 = true) (q : Addr) :
    ∃ h l n, renderOperand m q s = { s with
        dec := { s.dec with ot := operandLead m ++ hex2 h ++ hex2 l ++ operandTail m s.dec.pb, opn := 2 }
        draws := n } ∧
      MayRead s q h ∧ MayRead s (q + 1) l ∧
      (inWindow s.cfg q = true → inWindow s.cfg (q + 1) = true → n = s.draws) := by
  obtain ⟨h, n1, hread1, hh, hn1⟩ := memRead_mayRead q s
  obtain ⟨l, n, hread2, hl, hn⟩ := memRead_mayRead (q + 1) { s with draws := n1 }
  refine ⟨h, l, n, ?_, hh, hl, fun hin1 hin2 => (hn hin2).trans (hn1 hin1)⟩
  unfold renderOperand
  simp only [htwo, hread1, hread2]
  rfl

/-- What the zero skip writes, over a byte its read may return; it reads only for a 16-bit immediate (R107). -/
theorem zeroSkip_reads (m : Mode) (p : Addr) (s : State) :
    ∃ z n, zeroSkip m p s = { s with
        dec := { s.dec with
          is16 := s.dec.is16 && !skipsZero m s.dec.is16 z, extra := if skipsZero m s.dec.is16 z then 1 else 0 }
        draws := n } ∧
      MayRead s (p + 1) z ∧ (inWindow s.cfg (p + 1) = true → n = s.draws) := by
  cases hwide : m == .imm && s.dec.is16 with
  | false =>
    refine ⟨_, s.draws, ?_, mayRead_held s (p + 1), fun _ => rfl⟩
    simp [zeroSkip, skipsZero, hwide]
  | true =>
    obtain ⟨z, n, hread, hz, hn⟩ := memRead_mayRead (p + 1) s
    refine ⟨z, n, ?_, hz, hn⟩
    have h16 : s.dec.is16 = true := (Bool.and_eq_true_iff.mp hwide).2
    unfold zeroSkip
    rw [if_pos hwide]
    simp only [hread, skipsZero, hwide]
    by_cases h0 : z = 0#8 <;> simp [h0, h16]

/-! ### The operand stage -/

/-- The bytes of the operand stage: `z` of the zero test, `b1` and `b2` of the two addresses after the family byte at
`p`, and `n` the draws when it ends (R51, R106, R107). -/
structure OperandReads (s : State) (p : Addr) (z b1 b2 : Byte) (n : Nat) : Prop where
  zero : MayRead s (p + 1) z
  first : MayRead s (p + 1) b1
  second : MayRead s (p + 2) b2
  draws : inWindow s.cfg (p + 1) = true → inWindow s.cfg (p + 2) = true → n = s.draws

/-- The decoder's registers after the operand stage, as R76, R81 and R107 have them. -/
def operandRegs (d : Dec) (m : Mode) (z b1 b2 : Byte) : Dec :=
  { d with
    is16 := d.is16 && !skipsZero m d.is16 z
    opn := if skipsZero m d.is16 z then 1 else rowLength m d.is16
    extra := if skipsZero m d.is16 z then 1 else 0
    ot := rowText m d.is16 d.pb z b1 b2 }

/-- A zero is skipped only in a 16-bit immediate (R107). -/
theorem skipsZero_iff (m : Mode) (is16 : Bool) (z : Byte) :
    skipsZero m is16 z = true ↔ m = .imm ∧ is16 = true ∧ z = 0x00 := by
  simp [skipsZero, and_assoc]

/-- R76's length is the number of bytes rendered where no zero is skipped. -/
theorem rowLength_eq (m : Mode) (is16 : Bool) : rowLength m is16 = if rendersTwo m is16 then 2 else 1 := by
  cases m <;> cases is16 <;> rfl

/-- R81's text of one byte. -/
theorem rowText_one {m : Mode} {is16 : Bool} (hone : rendersTwo m is16 = false) (pb z b1 b2 : Byte) :
    operandLead m ++ hex2 b1 ++ operandTail m pb = rowText m is16 pb z b1 b2 := by
  cases m with
  | imm =>
    obtain rfl : is16 = false := hone
    simp [operandLead, operandTail, rowText]
  | dir | idx => simp [operandLead, operandTail, rowText]
  | ext => cases hone

/-- R81's text of two bytes, none of them skipped. -/
theorem rowText_two {m : Mode} {is16 : Bool} {z : Byte} (htwo : rendersTwo m is16 = true)
    (hkeep : skipsZero m is16 z = false) (pb b1 b2 : Byte) :
    operandLead m ++ hex2 b1 ++ hex2 b2 ++ operandTail m pb = rowText m is16 pb z b1 b2 := by
  cases m with
  | imm =>
    obtain rfl : is16 = true := htwo
    have h0 : z ≠ 0#8 := by simpa [skipsZero] using hkeep
    simp [operandLead, operandTail, rowText, h0]
  | dir | idx => cases htwo
  | ext => simp [operandLead, operandTail, rowText]

/-- The registers where no zero is skipped: `IS16` stays. -/
theorem operandRegs_of_keep {d : Dec} {m : Mode} {z : Byte} (hkeep : skipsZero m d.is16 z = false) (b1 b2 : Byte) :
    operandRegs d m z b1 b2 =
      { d with opn := rowLength m d.is16, extra := 0, ot := rowText m d.is16 d.pb z b1 b2 } := by
  simp [operandRegs, hkeep]

/-- The registers after a skipped zero: one byte is left, and `IS16` is cleared (R107). -/
theorem operandRegs_of_skip {d : Dec} (h16 : d.is16 = true) (b1 b2 : Byte) :
    operandRegs d .imm 0x00 b1 b2 = { d with is16 := false, opn := 1, extra := 1, ot := "#$" ++ hex2 b2 } := by
  simp only [operandRegs, rowText, h16]
  rfl

theorem addr_add_two (p : Addr) : p + 1 + 1 = p + 2 := BitVec.add_assoc p 1 1

/-- The operand stage writes what R76, R81 and R107 ask for, over bytes its reads may return: the byte after a skipped
zero, or two bytes, or one, from the address after the family byte. -/
theorem operandStage_reads (m : Mode) (p : Addr) (s : State) :
    ∃ z b1 b2 n, OperandReads s p z b1 b2 n ∧
      operandStage m p s = { s with dec := operandRegs s.dec m z b1 b2, draws := n } := by
  obtain ⟨z, n0, hzero, hz, hn0⟩ := zeroSkip_reads m p s
  unfold operandStage
  simp only [hzero]
  cases hskip : skipsZero m s.dec.is16 z with
  | true =>
    obtain ⟨rfl, h16, rfl⟩ := (skipsZero_iff m s.dec.is16 z).mp hskip
    obtain ⟨b2, n, hrender, hb2, hn⟩ := renderOperand_one (m := .imm)
      (s := { s with dec := { s.dec with is16 := false, extra := 1 }, draws := n0 }) rfl (p + 1 + 1)
    rw [addr_add_two] at hb2 hn
    refine ⟨0x00, 0x00, b2, n, ⟨hz, hz, hb2, fun hin1 hin2 => (hn hin2).trans (hn0 hin1)⟩, ?_⟩
    rw [operandRegs_of_skip h16]
    simpa [h16, operandLead, operandTail] using hrender
  | false =>
    simp only [Bool.not_false, Bool.and_true, Bool.false_eq_true, if_false, BitVec.ofNat_eq_ofNat, BitVec.add_zero]
    have hlength := rowLength_eq m s.dec.is16
    cases htwo : rendersTwo m s.dec.is16 with
    | true =>
      obtain ⟨b1, b2, n, hrender, hb1, hb2, hn⟩ := renderOperand_two
        (s := { s with dec := { s.dec with extra := 0 }, draws := n0 }) htwo (p + 1)
      rw [addr_add_two] at hb2 hn
      refine ⟨z, b1, b2, n, ⟨hz, hb1, hb2, fun hin1 hin2 => (hn hin1 hin2).trans (hn0 hin1)⟩, hrender.trans ?_⟩
      rw [operandRegs_of_keep hskip, hlength, htwo, rowText_two htwo hskip]
      rfl
    | false =>
      obtain ⟨b1, n, hrender, hb1, hn⟩ := renderOperand_one
        (s := { s with dec := { s.dec with extra := 0 }, draws := n0 }) htwo (p + 1)
      refine ⟨z, b1, _, n, ⟨hz, hb1, mayRead_held s _, fun hin1 _ => (hn hin1).trans (hn0 hin1)⟩, hrender.trans ?_⟩
      rw [operandRegs_of_keep hskip, hlength, htwo, rowText_one htwo]
      rfl

/-- `OPN + EXTRA` is R76's length, a skipped zero counted. -/
theorem operandRegs_length (d : Dec) (m : Mode) (z b1 b2 : Byte) :
    (operandRegs d m z b1 b2).opn + (operandRegs d m z b1 b2).extra = rowLength m d.is16 := by
  cases hskip : skipsZero m d.is16 z with
  | false => rw [operandRegs_of_keep hskip]; rfl
  | true =>
    obtain ⟨rfl, h16, rfl⟩ := (skipsZero_iff m d.is16 z).mp hskip
    rw [operandRegs_of_skip h16, h16]
    rfl

/-! ### A row -/

/-- The suffix stage at a byte of a family's suffix key (R104). -/
theorem suffixStage_matchFamily {key : Byte} (hkey : suffixKey key = key) (fam : Family) (m : Mode) (s : State) :
    suffixStage (matchFamily fam key m s) = { s with
      dec := { s.dec with
        fb := familyByte key m, fam := fam, sfx := suffixOf s.cfg key s.dec.pb, is16 := is16Mark s.cfg key } } := by
  unfold suffixStage
  simp only [matchFamily_dec, matchFamily_cfg, suffixKey_familyByte hkey]
  rfl

/-- A family byte in a stand-alone decode: the row of its suffix key, under the suffix and the mark the key selects. -/
theorem rowDecodes_of_family {i : Instr} {s : State} {fam : Family} {key : Byte} {m : Mode} {sfx : Suffix}
    {is16 : Bool} {mnemonic : String} (hmode : s.opmode = .decode) (hkey : suffixKey key = key)
    (hsuffix : (suffixOf s.cfg key s.dec.pb, is16Mark s.cfg key) = (sfx, is16))
    (htext : familyText fam ++ suffixText sfx = mnemonic)
    (hexec : exec i s = .next (decodeFamily fam key m s)) : RowDecodes i s fam key m sfx is16 mnemonic := by
  obtain ⟨rfl, rfl⟩ := Prod.mk.inj hsuffix
  subst htext
  obtain ⟨z, b1, b2, n, hreads, hstage⟩ :=
    operandStage_reads m (cursor s) (suffixStage (matchFamily fam key m s))
  refine ⟨z, b1, b2, n, hreads.zero, hreads.first, hreads.second, hreads.draws, hexec.trans (congrArg _ ?_)⟩
  unfold decodeFamily familyStages
  rw [hstage, suffixStage_matchFamily hkey, finishDecode_alone _ _ (by simp [hmode])]
  simp only [familyResult, operandRegs_length]
  rfl

/-- The four bytes of a family's suffix key decode to the key's row (R70, R75). -/
theorem rowBytes_of_key {pb key : Byte} {fam : Family} {mk : Mode → Instr} (hkey : suffixKey key = key)
    (hfam : classify key = .family fam) (hrow : ∀ m, decodeRow fam pb key m = mk m) : RowBytes pb key mk := by
  have hadd (m : Mode) : key + modeBits m = familyByte key m := by
    refine BitVec.add_eq_or_of_and_eq_zero key (modeBits m) ?_
    rw [← hkey, suffixKey, BitVec.and_assoc]
    cases m <;> exact BitVec.and_zero
  have hbyte (m : Mode) : decodeOpcode pb (key + modeBits m) = mk m := by
    rw [hadd, decodeOpcode_familyByte hkey hfam, hrow]
  have himm := hbyte .imm
  rw [show key + modeBits .imm = key from BitVec.add_zero key] at himm
  exact ⟨himm, hbyte .dir, hbyte .idx, hbyte .ext⟩

end Sys2Proof.Machine
end

section
/-! PROOF. The rows of the opcode table, each by its suffix key: O1 to O12. -/

namespace Sys2Proof.Machine

/-! ### What makes a row of a family's key -/

/-- `mk` is the row of the family's key `key` after the preceding byte `pb`, with this suffix, mark and mnemonic (R70,
R71, R74, R104, R105). -/
structure KeyRow (c : Config) (pb : Byte) (fam : Family) (key : Byte) (sfx : Suffix) (is16 : Bool) (mnemonic : String)
    (mk : Mode → Instr) : Prop where
  isKey : suffixKey key = key
  family : classify key = .family fam
  suffix : (suffixOf c key pb, is16Mark c key) = (sfx, is16)
  text : familyText fam ++ suffixText sfx = mnemonic
  row : ∀ m, decodeRow fam pb key m = mk m
  runs : ∀ m s, exec (mk m) s = .next (decodeFamily fam key m s)

theorem KeyRow.bytes {c : Config} {pb : Byte} {fam : Family} {key : Byte} {sfx : Suffix} {is16 : Bool}
    {mnemonic : String} {mk : Mode → Instr} (h : KeyRow c pb fam key sfx is16 mnemonic mk) : RowBytes pb key mk :=
  rowBytes_of_key h.isKey h.family h.row

theorem KeyRow.decodes {s : State} {fam : Family} {key : Byte} {sfx : Suffix} {is16 : Bool} {mnemonic : String}
    {mk : Mode → Instr} (h : KeyRow s.cfg s.dec.pb fam key sfx is16 mnemonic mk) (hmode : s.opmode = .decode)
    (m : Mode) : RowDecodes (mk m) s fam key m sfx is16 mnemonic :=
  rowDecodes_of_family hmode h.isKey h.suffix h.text (h.runs m s)

/-! ### Rows whose suffix the key fixes -/

section
variable {c : Config} (htable : c.suffixTable = specSuffixTable) (pb : Byte)
include htable

theorem ldaa_row : KeyRow c pb .ld 0x86 .aa false "ldaa" .ldaa :=
  ⟨rfl, rfl, suffix_of_specTable htable (by decide) pb, rfl, fun _ => rfl, fun _ _ => rfl⟩

theorem ldab_row : KeyRow c pb .ld 0xC6 .ab false "ldab" .ldab :=
  ⟨rfl, rfl, suffix_of_specTable htable (by decide) pb, rfl, fun _ => rfl, fun _ _ => rfl⟩

theorem ldd_row : KeyRow c pb .ld 0xCC .d true "ldd" .ldd :=
  ⟨rfl, rfl, suffix_of_specTable htable (by decide) pb, rfl, fun _ => rfl, fun _ _ => rfl⟩

theorem lds_row : KeyRow c pb .ld 0x8E .s true "lds" .lds :=
  ⟨rfl, rfl, suffix_of_specTable htable (by decide) pb, rfl, fun _ => rfl, fun _ _ => rfl⟩

theorem ld84_row : KeyRow c pb .ld 0x84 .bare false "ld" .ld84 :=
  ⟨rfl, rfl, suffix_of_specTable htable (by decide) pb, rfl, fun _ => rfl, fun _ _ => rfl⟩

theorem ld8C_row : KeyRow c pb .ld 0x8C .bare false "ld" .ld8C :=
  ⟨rfl, rfl, suffix_of_specTable htable (by decide) pb, rfl, fun _ => rfl, fun _ _ => rfl⟩

theorem ldC4_row : KeyRow c pb .ld 0xC4 .bare false "ld" .ldC4 :=
  ⟨rfl, rfl, suffix_of_specTable htable (by decide) pb, rfl, fun _ => rfl, fun _ _ => rfl⟩

theorem staa_row : KeyRow c pb .st 0x87 .aa false "staa" .staa :=
  ⟨rfl, rfl, suffix_of_specTable htable (by decide) pb, rfl, fun _ => rfl, fun _ _ => rfl⟩

theorem stab_row : KeyRow c pb .st 0xC7 .ab false "stab" .stab :=
  ⟨rfl, rfl, suffix_of_specTable htable (by decide) pb, rfl, fun _ => rfl, fun _ _ => rfl⟩

theorem sts_row : KeyRow c pb .st 0x8F .s true "sts" .sts :=
  ⟨rfl, rfl, suffix_of_specTable htable (by decide) pb, rfl, fun _ => rfl, fun _ _ => rfl⟩

theorem st85_row : KeyRow c pb .st 0x85 .bare false "st" .st85 :=
  ⟨rfl, rfl, suffix_of_specTable htable (by decide) pb, rfl, fun _ => rfl, fun _ _ => rfl⟩

theorem st8D_row : KeyRow c pb .st 0x8D .bare false "st" .st8D :=
  ⟨rfl, rfl, suffix_of_specTable htable (by decide) pb, rfl, fun _ => rfl, fun _ _ => rfl⟩

theorem stC5_row : KeyRow c pb .st 0xC5 .bare false "st" .stC5 :=
  ⟨rfl, rfl, suffix_of_specTable htable (by decide) pb, rfl, fun _ => rfl, fun _ _ => rfl⟩

theorem suba_row : KeyRow c pb .sub 0x80 .a false "suba" .suba :=
  ⟨rfl, rfl, suffix_of_specTable htable (by decide) pb, rfl, fun _ => rfl, fun _ _ => rfl⟩

theorem subb_row : KeyRow c pb .sub 0xC0 .b false "subb" .subb :=
  ⟨rfl, rfl, suffix_of_specTable htable (by decide) pb, rfl, fun _ => rfl, fun _ _ => rfl⟩

theorem subd_row : KeyRow c pb .sub 0x83 .d true "subd" .subd :=
  ⟨rfl, rfl, suffix_of_specTable htable (by decide) pb, rfl, fun _ => rfl, fun _ _ => rfl⟩

theorem sub82_row : KeyRow c pb .sub 0x82 .bare false "sub" .sub82 :=
  ⟨rfl, rfl, suffix_of_specTable htable (by decide) pb, rfl, fun _ => rfl, fun _ _ => rfl⟩

theorem sub88_row : KeyRow c pb .sub 0x88 .bare false "sub" .sub88 :=
  ⟨rfl, rfl, suffix_of_specTable htable (by decide) pb, rfl, fun _ => rfl, fun _ _ => rfl⟩

theorem sub8A_row : KeyRow c pb .sub 0x8A .bare false "sub" .sub8A :=
  ⟨rfl, rfl, suffix_of_specTable htable (by decide) pb, rfl, fun _ => rfl, fun _ _ => rfl⟩

theorem subC2_row : KeyRow c pb .sub 0xC2 .bare false "sub" .subC2 :=
  ⟨rfl, rfl, suffix_of_specTable htable (by decide) pb, rfl, fun _ => rfl, fun _ _ => rfl⟩

theorem subC8_row : KeyRow c pb .sub 0xC8 .bare false "sub" .subC8 :=
  ⟨rfl, rfl, suffix_of_specTable htable (by decide) pb, rfl, fun _ => rfl, fun _ _ => rfl⟩

theorem subCA_row : KeyRow c pb .sub 0xCA .bare false "sub" .subCA :=
  ⟨rfl, rfl, suffix_of_specTable htable (by decide) pb, rfl, fun _ => rfl, fun _ _ => rfl⟩

theorem adda_row : KeyRow c pb .ad 0x8B .da false "adda" .adda :=
  ⟨rfl, rfl, suffix_of_specTable htable (by decide) pb, rfl, fun _ => rfl, fun _ _ => rfl⟩

theorem addb_row : KeyRow c pb .ad 0xCB .db false "addb" .addb :=
  ⟨rfl, rfl, suffix_of_specTable htable (by decide) pb, rfl, fun _ => rfl, fun _ _ => rfl⟩

theorem adca_row : KeyRow c pb .ad 0x89 .ca false "adca" .adca :=
  ⟨rfl, rfl, suffix_of_specTable htable (by decide) pb, rfl, fun _ => rfl, fun _ _ => rfl⟩

theorem adcb_row : KeyRow c pb .ad 0xC9 .cb false "adcb" .adcb :=
  ⟨rfl, rfl, suffix_of_specTable htable (by decide) pb, rfl, fun _ => rfl, fun _ _ => rfl⟩

theorem addd_row : KeyRow c pb .ad 0xC3 .dd true "addd" .addd :=
  ⟨rfl, rfl, suffix_of_specTable htable (by decide) pb, rfl, fun _ => rfl, fun _ _ => rfl⟩

theorem ad81_row : KeyRow c pb .ad 0x81 .bare false "ad" .ad81 :=
  ⟨rfl, rfl, suffix_of_specTable htable (by decide) pb, rfl, fun _ => rfl, fun _ _ => rfl⟩

theorem adC1_row : KeyRow c pb .ad 0xC1 .bare false "ad" .adC1 :=
  ⟨rfl, rfl, suffix_of_specTable htable (by decide) pb, rfl, fun _ => rfl, fun _ _ => rfl⟩

end

/-- `std` runs in its three modes. Its key is the escape and no family byte, so that it is no `KeyRow` (R129). -/
theorem std_decodes {s : State} (hs : SpecDecode s) {m : Mode} (hm : m ≠ .imm) :
    RowDecodes (.std m) s .st 0xCD m .d true "std" :=
  rowDecodes_of_family hs.1 rfl (suffix_of_specTable hs.2 (by decide) _) rfl (if_neg hm)

/-! ### Rows whose suffix is the register letter -/

/-- The keys 0xCE and 0xCF take the letter of the preceding byte, and `P_XY_IS16` as the mark (R104, R105). -/
theorem suffix_of_letter {c : Config} {key pb : Byte} {letter : Suffix} (hkey : key = 0xCE ∨ key = 0xCF)
    (hletter : regLetter pb = letter) : (suffixOf c key pb, is16Mark c key) = (letter, c.xyIs16) := by
  obtain ⟨hsuffix, hmark⟩ := suffix_of_xyKey c hkey pb
  rw [hsuffix, hmark, hletter]

section
variable (c : Config) {pb : Byte}

theorem ldx_row (hpb : pb = 0x00 ∨ pb = 0xCD) : KeyRow c pb .ld 0xCE .x c.xyIs16 "ldx" .ldx :=
  ⟨rfl, rfl, suffix_of_letter (.inl rfl) (if_pos hpb), rfl, fun _ => xyRow_of_x hpb .., fun _ _ => rfl⟩

theorem ldy_row (hpb : pb = 0x18) : KeyRow c pb .ld 0xCE .y c.xyIs16 "ldy" .ldy := by
  subst hpb
  exact ⟨rfl, rfl, suffix_of_letter (.inl rfl) rfl, rfl, fun _ => rfl, fun _ _ => rfl⟩

theorem ldCE_row (h00 : pb ≠ 0x00) (hCD : pb ≠ 0xCD) (h18 : pb ≠ 0x18) :
    KeyRow c pb .ld 0xCE .bare c.xyIs16 "ld" .ldCE :=
  ⟨rfl, rfl, suffix_of_letter (.inl rfl) (regLetter_other h00 hCD h18), rfl,
    fun _ => xyRow_of_other (not_or.mpr ⟨h00, hCD⟩) h18 .., fun _ _ => rfl⟩

theorem stx_row (hpb : pb = 0x00 ∨ pb = 0xCD) : KeyRow c pb .st 0xCF .x c.xyIs16 "stx" .stx :=
  ⟨rfl, rfl, suffix_of_letter (.inr rfl) (if_pos hpb), rfl, fun _ => xyRow_of_x hpb .., fun _ _ => rfl⟩

theorem sty_row (hpb : pb = 0x18) : KeyRow c pb .st 0xCF .y c.xyIs16 "sty" .sty := by
  subst hpb
  exact ⟨rfl, rfl, suffix_of_letter (.inr rfl) rfl, rfl, fun _ => rfl, fun _ _ => rfl⟩

theorem stCF_row (h00 : pb ≠ 0x00) (hCD : pb ≠ 0xCD) (h18 : pb ≠ 0x18) :
    KeyRow c pb .st 0xCF .bare c.xyIs16 "st" .stCF :=
  ⟨rfl, rfl, suffix_of_letter (.inr rfl) (regLetter_other h00 hCD h18), rfl,
    fun _ => xyRow_of_other (not_or.mpr ⟨h00, hCD⟩) h18 .., fun _ _ => rfl⟩

end

/-! ### The statements, family by family -/

/-- Settles O1: the rows of the keys 0x86 and 0xC6. -/
theorem loadAccumulatorRowsDecode : Obligations.LoadAccumulatorRowsDecode := by
  rintro m pb s ⟨hmode, htable⟩
  exact ⟨(ldaa_row htable pb).bytes, (ldaa_row htable _).decodes hmode m,
    (ldab_row htable pb).bytes, (ldab_row htable _).decodes hmode m⟩

/-- Settles O2: the rows of the keys 0xCC and 0x8E. -/
theorem loadSixteenBitRowsDecode : Obligations.LoadSixteenBitRowsDecode := by
  rintro m pb s ⟨hmode, htable⟩
  exact ⟨(ldd_row htable pb).bytes, (ldd_row htable _).decodes hmode m,
    (lds_row htable pb).bytes, (lds_row htable _).decodes hmode m⟩

/-- Settles O3: the preceding byte picks the row and the letter of the key 0xCE. -/
theorem loadIndexRowsDecode : Obligations.LoadIndexRowsDecode := by
  rintro m s ⟨hmode, -⟩
  exact ⟨fun hpb => ⟨(ldx_row s.cfg hpb).bytes, (ldx_row _ hpb).decodes hmode m⟩,
    fun hpb => ⟨(ldy_row s.cfg hpb).bytes, (ldy_row _ hpb).decodes hmode m⟩⟩

/-- Settles O4: three keys the suffix table does not list, and the key 0xCE where no register is named. -/
theorem bareLoadRowsDecode : Obligations.BareLoadRowsDecode := by
  rintro m pb s ⟨hmode, htable⟩
  exact ⟨(ld84_row htable pb).bytes, (ld84_row htable _).decodes hmode m,
    (ld8C_row htable pb).bytes, (ld8C_row htable _).decodes hmode m,
    (ldC4_row htable pb).bytes, (ldC4_row htable _).decodes hmode m,
    fun h00 hCD h18 => ⟨(ldCE_row s.cfg h00 hCD h18).bytes, (ldCE_row _ h00 hCD h18).decodes hmode m⟩⟩

/-- Settles O5: the rows of the keys 0x87 and 0xC7. -/
theorem storeAccumulatorRowsDecode : Obligations.StoreAccumulatorRowsDecode := by
  rintro m pb s ⟨hmode, htable⟩
  exact ⟨(staa_row htable pb).bytes, (staa_row htable _).decodes hmode m,
    (stab_row htable pb).bytes, (stab_row htable _).decodes hmode m⟩

/-- Settles O6: the byte 0xCD is the escape before it is a row's, and the other three bytes of the key are `std`. -/
theorem storeSixteenBitRowsDecode : Obligations.StoreSixteenBitRowsDecode := fun m pb _ hs =>
  ⟨rfl, rfl, rfl, rfl, std_decodes hs, (sts_row hs.2 pb).bytes, (sts_row hs.2 _).decodes hs.1 m⟩

/-- Settles O7: the preceding byte picks the row and the letter of the key 0xCF. -/
theorem storeIndexRowsDecode : Obligations.StoreIndexRowsDecode := by
  rintro m s ⟨hmode, -⟩
  exact ⟨fun hpb => ⟨(stx_row s.cfg hpb).bytes, (stx_row _ hpb).decodes hmode m⟩,
    fun hpb => ⟨(sty_row s.cfg hpb).bytes, (sty_row _ hpb).decodes hmode m⟩⟩

/-- Settles O8: three keys the suffix table does not list, and the key 0xCF where no register is named. -/
theorem bareStoreRowsDecode : Obligations.BareStoreRowsDecode := by
  rintro m pb s ⟨hmode, htable⟩
  exact ⟨(st85_row htable pb).bytes, (st85_row htable _).decodes hmode m,
    (st8D_row htable pb).bytes, (st8D_row htable _).decodes hmode m,
    (stC5_row htable pb).bytes, (stC5_row htable _).decodes hmode m,
    fun h00 hCD h18 => ⟨(stCF_row s.cfg h00 hCD h18).bytes, (stCF_row _ h00 hCD h18).decodes hmode m⟩⟩

/-- Settles O9: the rows of the keys 0x80, 0xC0 and 0x83, the last of them tested before the add family. -/
theorem subtractRowsDecode : Obligations.SubtractRowsDecode := by
  rintro m pb s ⟨hmode, htable⟩
  exact ⟨(suba_row htable pb).bytes, (suba_row htable _).decodes hmode m,
    (subb_row htable pb).bytes, (subb_row htable _).decodes hmode m,
    (subd_row htable pb).bytes, (subd_row htable _).decodes hmode m⟩

/-- Settles O10: six keys the suffix table does not list. -/
theorem bareSubtractRowsDecode : Obligations.BareSubtractRowsDecode := by
  rintro m pb s ⟨hmode, htable⟩
  exact ⟨(sub82_row htable pb).bytes, (sub82_row htable _).decodes hmode m,
    (sub88_row htable pb).bytes, (sub88_row htable _).decodes hmode m,
    (sub8A_row htable pb).bytes, (sub8A_row htable _).decodes hmode m,
    (subC2_row htable pb).bytes, (subC2_row htable _).decodes hmode m,
    (subC8_row htable pb).bytes, (subC8_row htable _).decodes hmode m,
    (subCA_row htable pb).bytes, (subCA_row htable _).decodes hmode m⟩

/-- Settles O11: the rows of the keys 0x8B, 0xCB, 0x89 and 0xC9. -/
theorem addEightBitRowsDecode : Obligations.AddEightBitRowsDecode := by
  rintro m pb s ⟨hmode, htable⟩
  exact ⟨(adda_row htable pb).bytes, (adda_row htable _).decodes hmode m,
    (addb_row htable pb).bytes, (addb_row htable _).decodes hmode m,
    (adca_row htable pb).bytes, (adca_row htable _).decodes hmode m,
    (adcb_row htable pb).bytes, (adcb_row htable _).decodes hmode m⟩

/-- Settles O12: the row of the key 0xC3, and two keys the suffix table does not list. -/
theorem addSixteenBitAndBareRowsDecode : Obligations.AddSixteenBitAndBareRowsDecode := by
  rintro m pb s ⟨hmode, htable⟩
  exact ⟨(addd_row htable pb).bytes, (addd_row htable _).decodes hmode m,
    (ad81_row htable pb).bytes, (ad81_row htable _).decodes hmode m,
    (adC1_row htable pb).bytes, (adC1_row htable _).decodes hmode m⟩

end Sys2Proof.Machine
end

section
/-! PROOF. Escapes and NULL, and the bytes a decode consumes and reads: O13, O14, O15, O17, O18. -/

namespace Sys2Proof.Machine

/-! ### Escapes and NULL -/

theorem decodeEscape_within {s : State} (hbudget : s.dec.k < s.cfg.escBudget) (b : Byte) :
    decodeEscape b s = { s with dec := { s.dec with pb := b, k := s.dec.k + 1 } } := if_pos hbudget

theorem decodeEscape_past {s : State} (hbudget : s.cfg.escBudget ≤ s.dec.k) (b : Byte) :
    decodeEscape b s = decodeNull s := if_neg (Nat.not_lt.mpr hbudget)

/-- A stand-alone decode ends as NULL (R103). -/
theorem decodeNull_alone {s : State} (hmode : s.opmode = .decode) : decodeNull s = afterNull s :=
  finishDecode_alone _ s (by simp [hmode])

theorem exec_esc {b : Byte} (hfield : b &&& 0x85 = 0x00) (s : State) : exec (.esc b) s = .next (decodeEscape b s) :=
  if_pos hfield

theorem exec_escCD (s : State) : exec .escCD s = .next (decodeEscape 0xCD s) := rfl

/-- Settles O13: both rows are the escape of R102, within the budget. -/
theorem escapeIsRememberedAndSkipped : Obligations.EscapeIsRememberedAndSkipped := fun b s hbudget =>
  ⟨fun hfield => by rw [exec_esc hfield, decodeEscape_within hbudget],
    by rw [exec_escCD, decodeEscape_within hbudget]⟩

/-- Settles O14: both rows are the escape of R102, past the budget. -/
theorem escapePastBudgetIsNull : Obligations.EscapePastBudgetIsNull := fun b s hmode hbudget =>
  ⟨fun hfield => by rw [exec_esc hfield, decodeEscape_past hbudget, decodeNull_alone hmode],
    by rw [exec_escCD, decodeEscape_past hbudget, decodeNull_alone hmode]⟩

/-- Settles O15: the byte's mask class picks its row, and every row of R73 ends the decode as NULL. -/
theorem noMatchByteIsNull : Obligations.NoMatchByteIsNull := by
  intro b s hmode
  rw [← decodeNull_alone hmode]
  refine ⟨fun h => ⟨fun pb => ?_, if_pos h⟩, fun h => ⟨fun pb => ?_, if_pos h⟩, fun h => ⟨fun pb => ?_, if_pos h⟩⟩
  · exact (decodeOpcode_null (.inl h) pb).trans (if_pos h)
  · rw [decodeOpcode_null (.inr (.inl h)), show b &&& familyMask = 0x04 from h]; rfl
  · rw [decodeOpcode_null (.inr (.inr h)), show b &&& familyMask = 0x05 from h]; rfl

/-! ### The end of a decode -/

/-- What running an opcode instruction can be, in every state alike: a family's stages, an escape, the NULL result, or
the fault of a term that no byte encodes (R101; log entry 8). -/
theorem exec_opcode_cases {i : Instr} (hopcode : i.isRecord = false) :
    (∃ fam key m, ∀ s, exec i s = .next (decodeFamily fam key m s)) ∨ (∃ b, ∀ s, exec i s = .next (decodeEscape b s)) ∨
    (∀ s, exec i s = .next (decodeNull s)) ∨ (∀ s, exec i s = .fault .notEncodable) := by
  have hnull {p : Prop} [Decidable p] :
      (∀ s, (if p then .next (decodeNull s) else .fault .notEncodable : Host.Outcome State Fault Refusal) =
        .next (decodeNull s)) ∨
      (∀ s, (if p then .next (decodeNull s) else .fault .notEncodable : Host.Outcome State Fault Refusal) =
        .fault .notEncodable) :=
    (em p).imp (fun h _ => if_pos h) (fun h _ => if_neg h)
  cases i with
  | std m =>
    cases m with
    | imm => exact .inr (.inr (.inr fun _ => rfl))
    | dir | idx | ext => exact .inl ⟨_, _, _, fun _ => rfl⟩
  | esc b =>
    by_cases h : b &&& familyMask = 0x00
    · exact .inr (.inl ⟨b, fun _ => if_pos h⟩)
    · exact .inr (.inr (.inr fun _ => if_neg h))
  | escCD => exact .inr (.inl ⟨0xCD, fun _ => rfl⟩)
  | null01 b | null04 b | null05 b => exact .inr (.inr hnull)
  | s1 | s9 => cases hopcode
  | _ => exact .inl ⟨_, _, _, fun _ => rfl⟩

/-- A stand-alone decode that ends has met a family byte, or ends as NULL in every state with these registers and this
configuration. -/
theorem exec_ends_cases {i : Instr} {s t : State} (hopcode : i.isRecord = false) (hmode : s.opmode = .decode)
    (hexec : exec i s = .next t) (hidle : t.opmode = .idle) :
    (∃ fam key m, (∀ u, exec i u = .next (decodeFamily fam key m u)) ∧ t = decodeFamily fam key m s) ∨
    ((∀ u : State, u.dec = s.dec → u.cfg = s.cfg → exec i u = .next (decodeNull u)) ∧ t = decodeNull s) := by
  rcases exec_opcode_cases hopcode with ⟨fam, key, m, h⟩ | ⟨b, h⟩ | h | h <;> rw [h] at hexec <;> cases hexec
  · exact .inl ⟨fam, key, m, h, rfl⟩
  · right
    rcases Nat.lt_or_ge s.dec.k s.cfg.escBudget with hbudget | hbudget
    · rw [decodeEscape_within hbudget] at hidle
      exact absurd (hmode.symm.trans hidle) (by decide)
    · refine ⟨fun u hdec hcfg => ?_, decodeEscape_past hbudget b⟩
      rw [h, decodeEscape_past (by rwa [hdec, hcfg])]
  · exact .inr ⟨fun u _ _ => h u, rfl⟩

/-! ### The bytes it consumes -/

theorem decodeFamily_alone {s : State} (hmode : s.opmode = .decode) (fam : Family) (key : Byte) (m : Mode) :
    decodeFamily fam key m s =
      { familyStages fam key m s with
        dec := { (familyStages fam key m s).dec with result := familyResult (familyStages fam key m s) }
        ret := .decoded (familyResult (familyStages fam key m s)), opmode := .idle } := by
  refine finishDecode_alone _ _ ?_
  rw [familyStages_state]
  simp [hmode]

/-- The operand bytes of a row in a configuration: R76's table at the key's mark. -/
def rowCount (c : Config) (key : Byte) (m : Mode) : Nat := operandCount m (is16Mark c (suffixKey (familyByte key m)))

theorem rowCount_bounds (c : Config) (key : Byte) (m : Mode) : rowCount c key m = 1 ∨ rowCount c key m = 2 := by
  unfold rowCount operandCount
  split
  · exact .inr rfl
  · exact .inl rfl

/-- A family byte consumes the escapes, itself and its operand bytes (R109). -/
theorem decodeFamily_consumed {s : State} (hmode : s.opmode = .decode) (fam : Family) (key : Byte) (m : Mode) :
    (decodeFamily fam key m s).dec.result.consumedBytes = s.dec.k + 1 + rowCount s.cfg key m := by
  obtain ⟨-, hk, -, -, -, -, hcount⟩ := familyStages_dec fam key m s
  rw [decodeFamily_alone hmode]
  simp only [familyResult, validResult, hk, hcount]
  rfl

theorem decodeFamily_valid {s : State} (hmode : s.opmode = .decode) (fam : Family) (key : Byte) (m : Mode) :
    (decodeFamily fam key m s).dec.result.valid = true := by
  rw [decodeFamily_alone hmode]; rfl

/-- Settles O17: a family byte has one or two operand bytes, and the NULL result none. -/
theorem consumedBytesWithinBounds : Obligations.ConsumedBytesWithinBounds := by
  intro i s t hopcode hmode hbudget hexec hidle
  rcases exec_ends_cases hopcode hmode hexec hidle with ⟨fam, key, m, -, rfl⟩ | ⟨-, rfl⟩
  · rw [decodeFamily_consumed hmode, decodeFamily_valid hmode]
    have hcount := rowCount_bounds s.cfg key m
    exact ⟨by omega, by omega, fun _ => by omega, nofun⟩
  · rw [decodeNull_alone hmode]
    exact ⟨Nat.le_add_left 1 _, by simp only [afterNull]; omega, nofun, fun _ => rfl⟩

/-! ### The bytes it reads -/

section
variable {s : State} {mem' : Memory}

/-- A read of an address where the memories agree. -/
theorem memRead_withMem {a : Addr} (h : Memory.read mem' a.toNat = Memory.read s.mem a.toNat) :
    memRead a { s with mem := mem' } = ((memRead a s).1, { (memRead a s).2 with mem := mem' }) := by
  cases hin : inWindow s.cfg a with
  | true =>
    rw [memRead_inside hin, memRead_inside (s := { s with mem := mem' }) hin]
    exact congrArg (·, { s with mem := mem' }) h
  | false => rw [memRead_outside hin, memRead_outside (s := { s with mem := mem' }) hin]

/-- The zero test reads one byte, and only of a 16-bit immediate (R107). -/
theorem zeroSkip_withMem {m : Mode} {p : Addr}
    (h : m = .imm → s.dec.is16 = true → Memory.read mem' (p + 1).toNat = Memory.read s.mem (p + 1).toNat) :
    zeroSkip m p { s with mem := mem' } = { zeroSkip m p s with mem := mem' } := by
  unfold zeroSkip
  simp only
  split
  · next hwide =>
    obtain ⟨hm, h16⟩ := Bool.and_eq_true_iff.mp hwide
    rw [memRead_withMem (h (eq_of_beq hm) h16)]
    simp only
    split <;> rfl
  · rfl

/-- The render reads the byte at `q`, and the next one where it renders two (R106). -/
theorem renderOperand_withMem {m : Mode} {q : Addr} (hfirst : Memory.read mem' q.toNat = Memory.read s.mem q.toNat)
    (hsecond : rendersTwo m s.dec.is16 = true →
      Memory.read mem' (q + 1).toNat = Memory.read s.mem (q + 1).toNat) :
    renderOperand m q { s with mem := mem' } = { renderOperand m q s with mem := mem' } := by
  unfold renderOperand
  simp only [memRead_withMem hfirst]
  split
  · next htwo =>
    have hsecond' : Memory.read mem' (q + 1).toNat = Memory.read (memRead q s).2.mem (q + 1).toNat := by
      rw [memRead_mem]; exact hsecond htwo
    rw [memRead_withMem hsecond']
  · rfl

/-- The render begins after the family byte and a skipped zero. -/
theorem renderAddr_eq (p : Addr) (extra : Nat) :
    p + 1 + BitVec.ofNat 16 extra = p + BitVec.ofNat 16 (1 + extra) := by
  rw [BitVec.add_assoc, BitVec.ofNat_add]; rfl

/-- The operand stage reads only the operand bytes it counts (R111). -/
theorem operandStage_withMem {m : Mode} {p : Addr}
    (h : ∀ j, 1 ≤ j → j ≤ operandCount m s.dec.is16 →
      Memory.read mem' (p + BitVec.ofNat 16 j).toNat = Memory.read s.mem (p + BitVec.ofNat 16 j).toNat) :
    operandStage m p { s with mem := mem' } = { operandStage m p s with mem := mem' } := by
  have hzero : zeroSkip m p { s with mem := mem' } = { zeroSkip m p s with mem := mem' } :=
    zeroSkip_withMem fun hm h16 => h 1 le_rfl (by rw [hm, h16]; decide)
  have hmem : (zeroSkip m p s).mem = s.mem := by rw [zeroSkip_state]
  unfold operandStage
  simp only [hzero]
  refine renderOperand_withMem ?_ fun htwo => ?_
  · rw [hmem, renderAddr_eq]
    rcases zeroSkip_cases m p s with ⟨hextra, -⟩ | ⟨hm, h16, hextra, -⟩ <;> rw [hextra]
    · exact h 1 le_rfl (by unfold operandCount; split <;> decide)
    · exact h 2 (by decide) (by rw [hm, h16]; decide)
  · rw [hmem, renderAddr_eq]
    rcases zeroSkip_cases m p s with ⟨hextra, his16⟩ | ⟨hm, -, -, his16⟩
    · rw [hextra, BitVec.add_assoc]
      rw [his16] at htwo
      exact h 2 (by decide) (by rw [operandCount, if_pos htwo])
    · rw [his16, hm] at htwo
      cases htwo

/-- The stages of a family byte read only the operand bytes of its row. -/
theorem familyStages_withMem {fam : Family} {key : Byte} {m : Mode}
    (h : ∀ j, 1 ≤ j → j ≤ rowCount s.cfg key m →
      Memory.read mem' (cursor s + BitVec.ofNat 16 j).toNat =
        Memory.read s.mem (cursor s + BitVec.ofNat 16 j).toNat) :
    familyStages fam key m { s with mem := mem' } = { familyStages fam key m s with mem := mem' } :=
  operandStage_withMem (s := suffixStage (matchFamily fam key m s)) h

theorem decodeFamily_withMem {fam : Family} {key : Byte} {m : Mode} (hmode : s.opmode = .decode)
    (h : ∀ j, 1 ≤ j → j ≤ rowCount s.cfg key m →
      Memory.read mem' (cursor s + BitVec.ofNat 16 j).toNat =
        Memory.read s.mem (cursor s + BitVec.ofNat 16 j).toNat) :
    decodeFamily fam key m { s with mem := mem' } = { decodeFamily fam key m s with mem := mem' } := by
  rw [decodeFamily_alone hmode, decodeFamily_alone (s := { s with mem := mem' }) hmode, familyStages_withMem h]
  rfl

end

/-- Settles O18: the operand bytes a family byte counts are all it reads, and the NULL result reads none. -/
theorem decodeReadsOnlyConsumedBytes : Obligations.DecodeReadsOnlyConsumedBytes := by
  intro i s t mem' hopcode hmode hexec hidle hagree
  rcases exec_ends_cases hopcode hmode hexec hidle with ⟨fam, key, m, hfamily, rfl⟩ | ⟨hnull, rfl⟩
  · rw [decodeFamily_consumed hmode] at hagree
    rw [hfamily, decodeFamily_withMem hmode fun j hlo hhi => hagree j hlo (by omega)]
  · rw [hnull { s with mem := mem' } rfl rfl]
    rw [decodeNull_alone hmode, decodeNull_alone (s := { s with mem := mem' }) hmode]
    rfl

end Sys2Proof.Machine
end

section
/-! PROOF. Which instruction a step runs, and what a request initialises: O28, O39. -/

namespace Sys2Proof.Machine

/-- With no move of the host to come, a step is the block's. -/
theorem step_of_noMove {s : State} (hhost : s.host = []) : step s = blockStep s := by
  unfold step
  rw [hhost]

/-- A `stay` is used up beside a step of the block (log entry 2). -/
theorem step_of_stay {s : State} {rest : List HostMove} (hhost : s.host = .stay :: rest) :
    step s = blockStep { s with host := rest } := by
  unfold step
  rw [hhost]

theorem blockStep_of_decode {s : State} (hmode : s.opmode = .decode ∨ s.opmode = .disasm) :
    blockStep s = decodeStep s := by
  unfold blockStep
  rcases hmode with h | h <;> rw [h]

/-- The instruction of the byte at the cursor, in the valid window (R51, R101). -/
theorem decodeStep_inside {s : State} {i : Instr} (hin : inWindow s.cfg (cursor s) = true)
    (hdecode : decode (.opcode s.dec.pb) [Memory.read s.mem (cursor s).toNat] = .ok (i, [])) :
    decodeStep s = exec i s := by
  cases hdecode
  unfold decodeStep fetchOpcode
  rw [memRead_inside hin]

/-- The instruction of the byte at the cursor, outside the valid window: the byte is a draw (R51, log entry 1). -/
theorem decodeStep_outside {s : State} {i : Instr} (hout : inWindow s.cfg (cursor s) = false)
    (hdecode : decode (.opcode s.dec.pb) [Config.outsideRead s.draws (cursor s)] = .ok (i, [])) :
    decodeStep s = exec i { s with draws := s.draws + 1 } := by
  cases hdecode
  unfold decodeStep fetchOpcode
  rw [memRead_outside hout]

/-- Settles O28: the step is the block's, the block's is the decode's, and the decode's is that of the byte it reads. -/
theorem stepRunsTheOpcodeAtTheCursor : Obligations.StepRunsTheOpcodeAtTheCursor := by
  intro s i hmode
  have hnoMove (hhost : s.host = []) : step s = decodeStep s :=
    (step_of_noMove hhost).trans (blockStep_of_decode hmode)
  have hstay (rest : List HostMove) (hhost : s.host = .stay :: rest) : step s = decodeStep { s with host := rest } :=
    (step_of_stay hhost).trans (blockStep_of_decode hmode)
  refine ⟨fun hin hdecode => ⟨fun hhost => ?_, fun rest hhost => ?_⟩,
    fun hout hdecode => ⟨fun hhost => ?_, fun rest hhost => ?_⟩⟩
  · exact (hnoMove hhost).trans (decodeStep_inside hin hdecode)
  · exact (hstay rest hhost).trans (decodeStep_inside hin hdecode)
  · exact (hnoMove hhost).trans (decodeStep_outside hout hdecode)
  · exact (hstay rest hhost).trans (decodeStep_outside hout hdecode)

/-- Settles O39: with the block idle a request is due, and its move is the operation's initialisation. -/
theorem requestsInitialiseTheirRegisters : Obligations.RequestsInitialiseTheirRegisters := by
  intro s a rest hidle
  have hready (m : HostMove) (h : hostReady .idle m = true) : hostReady s.opmode m = true := by rwa [hidle]
  exact ⟨fun hhost => step_of_ready hhost (hready _ rfl), fun hhost => step_of_ready hhost (hready _ rfl)⟩

end Sys2Proof.Machine
end

section
/-! PROOF. The driver's requests and its pass over a decode's result: O43 to O46. -/

namespace Sys2Proof.Machine

/-! ### A request of `disasm` -/

theorem step_of_disasmRequest {s : State} {start stop : Addr} {rest : List HostMove} (hidle : s.opmode = .idle)
    (hhost : s.host = .requestDisasm start stop :: rest) :
    step s = .next (startDisasm start stop { s with host := rest }) :=
  step_of_ready hhost (by rw [hidle]; rfl)

theorem driverOutside_eq_some {c : Config} {start stop a : Addr} (hcheck : c.driverWindowCheck = true)
    (h : inWindow c start = false ∧ a = start ∨ inWindow c start = true ∧ inWindow c stop = false ∧ a = stop) :
    driverOutside c start stop = some a := by
  unfold driverOutside
  rcases h with ⟨hstart, rfl⟩ | ⟨hstart, hstop, rfl⟩
  · simp [hcheck, hstart]
  · simp [hcheck, hstart, hstop]

theorem driverOutside_eq_none {c : Config} {start stop : Addr}
    (h : c.driverWindowCheck = false ∨ inWindow c start = true ∧ inWindow c stop = true) :
    driverOutside c start stop = none := by
  unfold driverOutside
  rcases h with hcheck | ⟨hstart, hstop⟩
  · simp [hcheck]
  · simp [hstart, hstop]

theorem startDisasm_inverted {start stop : Addr} (h : start > stop) (s : State) :
    startDisasm start stop s = raise (.range start stop) { s with
      opmode := .disasm, drv := { s.drv with start := start, stop := stop } } := if_pos h

theorem startDisasm_outside {start stop a : Addr} {s : State} (hle : start ≤ stop)
    (hout : driverOutside s.cfg start stop = some a) :
    startDisasm start stop s = raise (.bounds none a s.cfg.min s.cfg.max) { s with
      opmode := .disasm, drv := { s.drv with start := start, stop := stop } } := by
  unfold startDisasm
  simp only [if_neg (BitVec.not_lt.mpr hle), hout]

/-- The checks passed: `Org(START)`, and the head of the loop decodes at START, which is not past END (R163, R164). -/
theorem startDisasm_accepted {start stop : Addr} {s : State} (hle : start ≤ stop)
    (hin : driverOutside s.cfg start stop = none) :
    startDisasm start stop s = startDecode start { s with
      opmode := .disasm, drv := ⟨start, stop, start.toNat⟩, out := s.out ++ [.org start] } := by
  unfold startDisasm
  simp only [if_neg (BitVec.not_lt.mpr hle), hin]
  refine (if_pos (BitVec.le_def.mp hle)).trans ?_
  rw [BitVec.ofNat_toNat, BitVec.setWidth_eq]
  rfl

/-- An error leaves the block idle, so a state that is idle anyway gets the report and the return only (R240). -/
theorem raise_withMode {s : State} (hidle : s.opmode = .idle) (mode : OpMode) (e : Error) :
    raise e { s with opmode := mode } = { s with out := s.out ++ [.report e.kind e], ret := .err e.kind e } := by
  unfold raise emit
  rw [← hidle]

/-- Settles O43: the range test comes first. -/
theorem disasmRejectsInvertedRange : Obligations.DisasmRejectsInvertedRange := by
  intro s start stop rest hidle hhost hinverted
  rw [step_of_disasmRequest hidle hhost, startDisasm_inverted hinverted]
  exact congrArg _ (raise_withMode
    (s := { s with host := rest, drv := { s.drv with start := start, stop := stop } }) hidle .disasm _)

/-- Settles O44: the range is not inverted, and the window check finds the address. -/
theorem disasmRejectsAddressOutsideWindow : Obligations.DisasmRejectsAddressOutsideWindow := by
  intro s start stop a rest hidle hhost hle hcheck hout
  rw [step_of_disasmRequest hidle hhost,
    startDisasm_outside (s := { s with host := rest }) hle (driverOutside_eq_some hcheck hout)]
  exact congrArg _ (raise_withMode
    (s := { s with host := rest, drv := { s.drv with start := start, stop := stop } }) hidle .disasm _)

/-- Settles O45: neither check finds a fault with the range. -/
theorem disasmOpensWithOrg : Obligations.DisasmOpensWithOrg := by
  intro s start stop rest hidle hhost hle hin
  rw [step_of_disasmRequest hidle hhost,
    startDisasm_accepted (s := { s with host := rest }) hle (driverOutside_eq_none hin)]
  rfl

/-! ### The driver's pass -/

/-- The raw bytes are each a byte that its address may return, whatever the reads before it drew (R55, R164). -/
theorem readBytes_mayRead (n : Nat) : ∀ (a : Addr) (s : State) (j : Nat) (h : j < (readBytes n a s).1.length),
    MayRead s (a + BitVec.ofNat 16 j) (readBytes n a s).1[j] := by
  induction n with
  | zero => intro a s j h; cases h
  | succ n ih =>
    intro a s j h
    obtain ⟨b, draws, hread, hmay, -⟩ := memRead_mayRead a s
    cases j with
    | zero => simpa [readBytes, hread] using hmay
    | succ j =>
      have hrest : MayRead s (a + 1 + BitVec.ofNat 16 j) _ :=
        ih (a + 1) { s with draws := draws } j (by simpa [readBytes, hread] using h)
      rw [renderAddr_eq, Nat.add_comm] at hrest
      simpa [readBytes, hread] using hrest

/-- The state after the driver's pass over the result `d` with the raw bytes `raw`: the next decode begins, or the run
has ended (R164, R167). `n` counts the draws. -/
def afterPass (d : DecodedInstruction) (raw : List Byte) (n : Nat) (s : State) : State :=
  let cur := s.drv.cur + d.consumedBytes
  if cur ≤ s.drv.stop.toNat then
    { s with
      drv := { s.drv with cur := cur }, out := s.out ++ [.instr d raw], draws := n
      dec := { s.dec with da := BitVec.ofNat 16 cur, k := 0, pb := 0x00, is16 := false } }
  else
    { s with
      drv := { s.drv with cur := cur }, out := s.out ++ [.instr d raw, .endMark s.drv.stop], draws := n
      ret := .disasmOk, opmode := .idle }

theorem afterPass_goesOn {d : DecodedInstruction} {s : State}
    (hle : s.drv.cur + d.consumedBytes ≤ s.drv.stop.toNat) (raw : List Byte) (n : Nat) :
    afterPass d raw n s = { s with
      drv := { s.drv with cur := s.drv.cur + d.consumedBytes }, out := s.out ++ [.instr d raw], draws := n
      dec := { s.dec with
        da := BitVec.ofNat 16 (s.drv.cur + d.consumedBytes), k := 0, pb := 0x00, is16 := false } } := if_pos hle

theorem afterPass_ends {d : DecodedInstruction} {s : State}
    (hpast : s.drv.stop.toNat < s.drv.cur + d.consumedBytes) (raw : List Byte) (n : Nat) :
    afterPass d raw n s = { s with
      drv := { s.drv with cur := s.drv.cur + d.consumedBytes }
      out := s.out ++ [.instr d raw, .endMark s.drv.stop], draws := n, ret := .disasmOk, opmode := .idle } :=
  if_neg (Nat.not_le.mpr hpast)

/-- What the driver's pass does: it renders the result with as many raw bytes as were consumed, and goes on or ends. -/
theorem driverPass_afterPass (d : DecodedInstruction) (s : State) :
    ∃ (raw : List Byte) (n : Nat), raw.length = d.consumedBytes ∧
      (∀ (j : Nat) (h : j < raw.length), MayRead s (BitVec.ofNat 16 (s.drv.cur + j)) raw[j]) ∧
      driverPass d s = afterPass d raw n s := by
  refine ⟨(readBytes d.consumedBytes (BitVec.ofNat 16 s.drv.cur) s).1,
    (readBytes d.consumedBytes (BitVec.ofNat 16 s.drv.cur) s).2.draws, readBytes_length _ _ s, fun j h => ?_, ?_⟩
  · rw [BitVec.ofNat_add]
    exact readBytes_mayRead _ _ s j h
  · rw [driverPass_eq]
    unfold driverNext afterPass finish emit startDecode
    simp only [List.append_assoc, List.cons_append, List.nil_append]

/-! ### The same decode, stand-alone and in a driver run -/

section
variable (s : State) (mode : OpMode)

theorem memRead_withMode (a : Addr) :
    memRead a { s with opmode := mode } = ((memRead a s).1, { (memRead a s).2 with opmode := mode }) := by
  unfold memRead
  simp only
  split <;> rfl

theorem zeroSkip_withMode (m : Mode) (p : Addr) :
    zeroSkip m p { s with opmode := mode } = { zeroSkip m p s with opmode := mode } := by
  unfold zeroSkip
  simp only [memRead_withMode]
  split
  · split <;> rfl
  · rfl

theorem renderOperand_withMode (m : Mode) (q : Addr) :
    renderOperand m q { s with opmode := mode } = { renderOperand m q s with opmode := mode } := by
  unfold renderOperand
  simp only [memRead_withMode]
  split <;> rfl

theorem operandStage_withMode (m : Mode) (p : Addr) :
    operandStage m p { s with opmode := mode } = { operandStage m p s with opmode := mode } := by
  unfold operandStage
  simp only [zeroSkip_withMode]
  exact renderOperand_withMode _ _ _ _

/-- The stages of a family byte do not look at `OPMODE` (R165). -/
theorem familyStages_withMode (fam : Family) (key : Byte) (m : Mode) :
    familyStages fam key m { s with opmode := mode } = { familyStages fam key m s with opmode := mode } :=
  operandStage_withMode (suffixStage (matchFamily fam key m s)) mode m (cursor s)

end

section
variable {s : State} (hmode : s.opmode = .disasm)
include hmode

/-- A decode ends in a driver run as it does stand-alone, with the driver's pass in place of the return. -/
theorem finishDecode_driver_of_alone (d : DecodedInstruction) :
    finishDecode d s = driverPass (finishDecode d { s with opmode := .decode }).dec.result { s with
      dec := (finishDecode d { s with opmode := .decode }).dec } :=
  finishDecode_driver d s hmode

theorem decodeFamily_driver (fam : Family) (key : Byte) (m : Mode) :
    ∃ n, decodeFamily fam key m s =
      driverPass (decodeFamily fam key m { s with opmode := .decode }).dec.result { s with
        dec := (decodeFamily fam key m { s with opmode := .decode }).dec, draws := n } := by
  have halone : decodeFamily fam key m { s with opmode := .decode } =
      finishDecode (familyResult (familyStages fam key m s)) { familyStages fam key m s with opmode := .decode } :=
    congrArg (fun u => finishDecode (familyResult u) u) (familyStages_withMode s .decode fam key m)
  have hstages : (familyStages fam key m s).opmode = .disasm := by rw [familyStages_state]; exact hmode
  have hframe (r : Dec) : { familyStages fam key m s with dec := r } =
      { s with dec := r, draws := (familyStages fam key m s).draws } := by rw [familyStages_state]
  refine ⟨(familyStages fam key m s).draws, ?_⟩
  rw [halone, ← hframe]
  exact finishDecode_driver_of_alone hstages _

/-- An instruction that ends a stand-alone decode ends it in a driver run with the pass over the same result. -/
theorem exec_driver_of_alone {i : Instr} {u : State} (hopcode : i.isRecord = false)
    (hexec : exec i { s with opmode := .decode } = .next u) (hidle : u.opmode = .idle) :
    ∃ n, exec i s = .next (driverPass u.dec.result { s with dec := u.dec, draws := n }) := by
  rcases exec_ends_cases hopcode rfl hexec hidle with ⟨fam, key, m, hfamily, rfl⟩ | ⟨hnull, rfl⟩
  · rw [hfamily]
    exact (decodeFamily_driver hmode fam key m).imp fun _ => congrArg _
  · rw [hnull s rfl rfl]
    exact ⟨s.draws, congrArg _ (finishDecode_driver_of_alone hmode _)⟩

end

/-- Settles O46: the decode ends with the driver's pass over the result it has stand-alone. -/
theorem driverAdvancesByConsumedBytes : Obligations.DriverAdvancesByConsumedBytes := by
  intro i s u hopcode hmode hexec hidle
  obtain ⟨draws, hpass⟩ := exec_driver_of_alone hmode hopcode hexec hidle
  obtain ⟨raw, n, hlength, hread, hafter⟩ := driverPass_afterPass u.dec.result { s with dec := u.dec, draws := draws }
  exact ⟨raw, n, hlength, hread, hpass.trans (congrArg _ hafter)⟩

end Sys2Proof.Machine
end

section
/-! PROOF. A driver run that the host leaves alone ends: O47. -/

namespace Sys2Proof.Machine

/-! ### A step of a driver run -/

/-- What a step of a driver run can do: skip an escape while the budget lasts, or end a decode of at least one byte
with the driver's pass. -/
inductive DriverStep (s : State) : State → Prop
  | skip (b : Byte) (n : Nat) (hbudget : s.dec.k < s.cfg.escBudget) :
      DriverStep s { s with dec := { s.dec with pb := b, k := s.dec.k + 1 }, draws := n }
  | pass (d : DecodedInstruction) (raw : List Byte) (r : Dec) (n : Nat) (hconsumed : 1 ≤ d.consumedBytes) :
      DriverStep s (afterPass d raw n { s with dec := r })

theorem DecodeStep.driverStep {s t : State} (h : DecodeStep s t) (hmode : s.opmode = .disasm) : DriverStep s t := by
  cases h with
  | skip b n hbudget => exact .skip b n hbudget
  | done d r n hda hk haddress hlo hhi =>
    rw [finishDecode_driver d { s with dec := r, draws := n } hmode]
    obtain ⟨raw, n', -, -, hpass⟩ := driverPass_afterPass d { s with dec := { r with result := d }, draws := n }
    rw [hpass]
    exact .pass d raw { r with result := d } n' (by omega)

/-- A step of a driver run that the host leaves alone. -/
theorem step_disasm {s : State} (hmode : s.opmode = .disasm) (hhost : s.host = []) :
    ∃ t, step s = .next t ∧ DriverStep s t := by
  rw [step_of_noMove hhost, blockStep_of_decode (.inr hmode)]
  exact (decodeStep_cases s).imp fun t ⟨hstep, h⟩ => ⟨hstep, h.driverStep hmode⟩

/-! ### The steps a run has left -/

/-- A bound on the steps a driver run has left: each address up to END can begin a decode, which takes a step for each
escape of the budget and one more; the decode in progress has had `K` of its own. -/
def stepsLeft (s : State) : Nat := (s.drv.stop.toNat + 1 - s.drv.cur) * (s.cfg.escBudget + 1) - s.dec.k

/-- A driver run whose decode can still take a step: the escapes are within the budget and CUR is not past END. -/
structure Disassembling (s : State) : Prop where
  mode : s.opmode = .disasm
  host : s.host = []
  escapes : s.dec.k ≤ s.cfg.escBudget
  cursor : s.drv.cur ≤ s.drv.stop.toNat

/-- The decode in progress alone has a step left. -/
theorem Disassembling.lt_steps {s : State} (h : Disassembling s) :
    s.dec.k < (s.drv.stop.toNat + 1 - s.drv.cur) * (s.cfg.escBudget + 1) := by
  have hcursor := h.cursor
  have hescapes := h.escapes
  exact Nat.lt_of_lt_of_le (Nat.lt_succ_of_le hescapes) (Nat.le_mul_of_pos_left _ (by omega))

/-- An escape skipped has used up a step of the decode in progress. -/
theorem Disassembling.skip {s : State} (h : Disassembling s) (hbudget : s.dec.k < s.cfg.escBudget) (b : Byte)
    (n : Nat) :
    Disassembling { s with dec := { s.dec with pb := b, k := s.dec.k + 1 }, draws := n } ∧
    stepsLeft { s with dec := { s.dec with pb := b, k := s.dec.k + 1 }, draws := n } < stepsLeft s :=
  ⟨⟨h.mode, h.host, hbudget, h.cursor⟩, Nat.sub_succ_lt_self _ _ h.lt_steps⟩

/-- A pass that goes on has used up an address, and so the steps of a whole decode (R166). -/
theorem Disassembling.pass {s : State} (h : Disassembling s) {d : DecodedInstruction} (hconsumed : 1 ≤ d.consumedBytes)
    (hle : s.drv.cur + d.consumedBytes ≤ s.drv.stop.toNat) (raw : List Byte) (r : Dec) (n : Nat) :
    Disassembling (afterPass d raw n { s with dec := r }) ∧
    stepsLeft (afterPass d raw n { s with dec := r }) < stepsLeft s := by
  rw [afterPass_goesOn (s := { s with dec := r }) hle]
  refine ⟨⟨h.mode, h.host, Nat.zero_le _, hle⟩, ?_⟩
  have hescapes := h.escapes
  have hdecode : (s.drv.stop.toNat + 1 - (s.drv.cur + d.consumedBytes) + 1) * (s.cfg.escBudget + 1) ≤
      (s.drv.stop.toNat + 1 - s.drv.cur) * (s.cfg.escBudget + 1) := Nat.mul_le_mul_right _ (by omega)
  rw [Nat.add_one_mul] at hdecode
  simp only [stepsLeft]
  omega

/-! ### The end of a run -/

/-- `t` is the state in which the driver run that stood in `s` has returned `Ok`: its events are at most one `Instr` for
each address up to END, and `End(END)`; memory, the stream and the loader are as they were (R100, R166, R167). -/
structure DisasmReturned (s t : State) : Prop where
  mode : t.opmode = .idle
  ret : t.ret = .disasmOk
  events : ∃ events, t.out = s.out ++ events ++ [.endMark s.drv.stop] ∧
    events.length ≤ s.drv.stop.toNat + 1 - s.drv.cur ∧ ∀ e ∈ events, ∃ d raw, e = .instr d raw
  mem : t.mem = s.mem
  inp : t.inp = s.inp
  ldr : t.ldr = s.ldr

theorem DisasmReturned.of_skip {s t : State} {b : Byte} {n : Nat}
    (h : DisasmReturned { s with dec := { s.dec with pb := b, k := s.dec.k + 1 }, draws := n } t) :
    DisasmReturned s t :=
  ⟨h.mode, h.ret, h.events, h.mem, h.inp, h.ldr⟩

/-- What a run returns after a pass that goes on, it returns before it, with the pass's `Instr` event in front. -/
theorem DisasmReturned.of_pass {s t : State} {d : DecodedInstruction} {raw : List Byte} {r : Dec} {n : Nat}
    (hconsumed : 1 ≤ d.consumedBytes) (hle : s.drv.cur + d.consumedBytes ≤ s.drv.stop.toNat)
    (h : DisasmReturned (afterPass d raw n { s with dec := r }) t) : DisasmReturned s t := by
  rw [afterPass_goesOn (s := { s with dec := r }) hle] at h
  obtain ⟨events, hout, hlength, hinstr⟩ := h.events
  refine ⟨h.mode, h.ret, ⟨.instr d raw :: events, by simpa using hout, ?_, ?_⟩, h.mem, h.inp, h.ldr⟩
  · simp only at hlength
    simp only [List.length_cons]
    omega
  · exact List.forall_mem_cons.mpr ⟨⟨d, raw, rfl⟩, hinstr⟩

/-- A pass that takes CUR past END ends the run (R167). -/
theorem afterPass_returned {s : State} (hcursor : s.drv.cur ≤ s.drv.stop.toNat) {d : DecodedInstruction}
    (hpast : s.drv.stop.toNat < s.drv.cur + d.consumedBytes) (raw : List Byte) (r : Dec) (n : Nat) :
    DisasmReturned s (afterPass d raw n { s with dec := r }) := by
  rw [afterPass_ends (s := { s with dec := r }) hpast]
  refine ⟨rfl, rfl, ⟨[.instr d raw], by simp, ?_, by simp⟩, rfl, rfl, rfl⟩
  simp only [List.length_singleton]
  omega

/-- A driver run returns within the steps it has left: each step uses some up, or ends the run. -/
theorem disasm_returns {s : State} (h : Disassembling s) :
    ∃ n t, n ≤ stepsLeft s ∧ Host.Core.run core n s = .next t ∧ DisasmReturned s t := by
  induction hleft : stepsLeft s using Nat.strong_induction_on generalizing s with
  | _ left ih =>
    subst hleft
    obtain ⟨t, hstep, hcases⟩ := step_disasm h.mode h.host
    cases hcases with
    | skip b n hbudget =>
      obtain ⟨hnext, hless⟩ := h.skip hbudget b n
      obtain ⟨j, u, hj, hrun, hu⟩ := ih _ hless hnext rfl
      exact ⟨j + 1, u, by omega, (run_succ hstep j).trans hrun, hu.of_skip⟩
    | pass d raw r n hconsumed =>
      rcases Nat.lt_or_ge s.drv.stop.toNat (s.drv.cur + d.consumedBytes) with hpast | hle
      · exact ⟨1, _, Nat.sub_pos_of_lt h.lt_steps, run_succ hstep 0, afterPass_returned h.cursor hpast raw r n⟩
      · obtain ⟨hnext, hless⟩ := h.pass hconsumed hle raw r n
        obtain ⟨j, u, hj, hrun, hu⟩ := ih _ hless hnext rfl
        exact ⟨j + 1, u, by omega, (run_succ hstep j).trans hrun, hu.of_pass hconsumed hle⟩

/-- Settles O47: the invariant says that a driver run can still take a step, and a run returns within those left. -/
theorem disasmTerminates : Obligations.DisasmTerminates := by
  intro s hinv hmode hhost
  obtain ⟨hcursor, -⟩ := hinv.driverCursor hmode
  obtain ⟨n, t, hn, hrun, h⟩ := disasm_returns ⟨hmode, hhost, hinv.escapesInBudget, hcursor⟩
  exact ⟨n, t, hn.trans (Nat.sub_le _ _), hrun, h.mode, h.ret, h.events, h.mem, h.inp, h.ldr⟩

end Sys2Proof.Machine
end

section
/-! PROOF. A step of a load: the window, the scan, and the records that end it: O29, O40, O49 to O53, O55. -/

namespace Sys2Proof.Machine

/-! ### One step of a load -/

theorem blockStep_of_load {s : State} (hmode : s.opmode = .load) : blockStep s = loadStep s := by
  unfold blockStep
  rw [hmode]

/-- A step of a load that the host leaves alone. -/
theorem step_of_load {s : State} (hmode : s.opmode = .load) (hhost : s.host = []) : step s = loadStep s :=
  (step_of_noMove hhost).trans (blockStep_of_load hmode)

/-- A move of the host that must wait leaves the step to the block (log entry 2). -/
theorem step_of_blocked {s : State} {m : HostMove} {rest : List HostMove} (hhost : s.host = m :: rest)
    (hstay : m ≠ .stay) (hready : hostReady s.opmode m = false) : step s = blockStep s := by
  unfold step
  rw [hhost]
  cases m with
  | stay => exact absurd rfl hstay
  | _ => exact if_neg (by rw [hready]; decide)

theorem loadStep_of_record {s : State} {i : Instr} (hphase : s.ldr.phase = .scan)
    (hwindow : decodeWindow s.ldr.w = .ok i) : loadStep s = exec i s := by
  unfold loadStep
  simp only [hphase, hwindow]

theorem loadStep_of_fill {s : State} {i : Fin 8} (hphase : s.ldr.phase = .fill i) :
    loadStep s = .next (recvChar (fillWindow i) s) := by
  unfold loadStep
  simp only [hphase]

theorem loadStep_of_slide {s : State} (hphase : s.ldr.phase = .scan)
    (hwindow : decodeWindow s.ldr.w = .error .notARecord) : loadStep s = .next (recvChar slideWindow s) := by
  unfold loadStep
  simp only [hphase, hwindow]

theorem loadStep_of_inRecord {s : State}
    (hphase : (∃ left hi, s.ldr.phase = .data left hi) ∨ ∃ hi, s.ldr.phase = .check hi) :
    loadStep s = .next (runRecord s.inp s) := by
  unfold loadStep
  rcases hphase with ⟨left, hi, h⟩ | ⟨hi, h⟩ <;> simp only [h]

theorem loadStep_of_commit {s : State} (hphase : s.ldr.phase = .commit) : loadStep s = .next (commitNext s) := by
  unfold loadStep
  simp only [hphase]

theorem recvChar_char {use : Byte → State → State} {s : State} {c : Byte} {rest : List StreamItem}
    (hinp : s.inp = .char c :: rest) : recvChar use s = use c { s with inp := rest } := by
  unfold recvChar
  rw [hinp]

/-- A load that needs a character takes it for its window or for its record (R182, R200). -/
theorem loadStep_of_needsChar {s : State} (h : NeedsChar s) :
    (∃ use, loadStep s = .next (recvChar use s)) ∨ loadStep s = .next (runRecord s.inp s) := by
  obtain ⟨-, hcommit, hscan⟩ := h
  cases hphase : s.ldr.phase with
  | fill i => exact .inl ⟨_, loadStep_of_fill hphase⟩
  | scan => exact .inl ⟨_, loadStep_of_slide hphase (hscan hphase)⟩
  | data left hi => exact .inr (loadStep_of_inRecord (.inl ⟨left, hi, hphase⟩))
  | check hi => exact .inr (loadStep_of_inRecord (.inr ⟨hi, hphase⟩))
  | commit => exact absurd hphase hcommit

/-- With no character at hand it waits as it is (R182, log entry 10). -/
theorem loadStep_waits {s : State} (h : NeedsChar s) (hinp : s.inp = []) : loadStep s = .next s := by
  rcases loadStep_of_needsChar h with ⟨use, e⟩ | e <;> rw [e]
  · simp only [recvChar, hinp]
  · rw [hinp, runRecord, ← hinp]

/-- At the end of the stream it ends (R235). -/
theorem loadStep_endOfStream {s : State} {rest : List StreamItem} (h : NeedsChar s) (hinp : s.inp = .eos :: rest) :
    loadStep s = .next (raise (.streamEnd s.ldr.line) { s with inp := rest }) := by
  rcases loadStep_of_needsChar h with ⟨use, e⟩ | e <;> rw [e]
  · simp only [recvChar, hinp]
  · rw [hinp, runRecord]

/-! ### The window -/

/-- Settles O29: the step is the block's, the block's is the load's, and the load's is that of the record. -/
theorem stepRunsTheRecordInTheWindow : Obligations.StepRunsTheRecordInTheWindow := by
  intro s i hmode hphase hwindow
  have hstay (rest : List HostMove) (hhost : s.host = .stay :: rest) : step s = loadStep { s with host := rest } :=
    (step_of_stay hhost).trans (blockStep_of_load hmode)
  refine ⟨fun hhost => ?_, fun rest hhost => ?_⟩
  · exact (step_of_load hmode hhost).trans (loadStep_of_record hphase hwindow)
  · exact (hstay rest hhost).trans (loadStep_of_record hphase hwindow)

/-- Settles O40: no move of the host is due, so the step is the block's, and the block has nothing to do. -/
theorem theBlockWaitsForTheHost : Obligations.TheBlockWaitsForTheHost := by
  refine fun s => ⟨fun hidle hhost => ?_, fun hneeds hinp hhost => ?_⟩
  · rw [step_of_noMove hhost, blockStep, hidle]
  · have hmode : s.opmode = .load := hneeds.1
    have hwaits : blockStep s = .next s := (blockStep_of_load hmode).trans (loadStep_waits hneeds hinp)
    have hblocked {m rest} (h : s.host = m :: rest) (hstay : m ≠ .stay) (hready : hostReady .load m = false) :
        step s = .next s := (step_of_blocked h hstay (hmode ▸ hready)).trans hwaits
    rcases hhost with h | ⟨a, rest, h⟩ | ⟨a, b, rest, h⟩ | ⟨rest, h⟩ | ⟨a, v, rest, h⟩
    · exact (step_of_noMove h).trans hwaits
    · exact hblocked h nofun rfl
    · exact hblocked h nofun rfl
    · exact hblocked h nofun rfl
    · exact hblocked h nofun rfl

/-- The phase of a window fill with `i` characters in the window (R185). -/
def fillPhase (i : Nat) : LoadPhase := if h : i < 8 then .fill ⟨i, h⟩ else .scan

theorem fillPhase_of_lt {i : Nat} (hi : i < 8) : fillPhase i = .fill ⟨i, hi⟩ := dif_pos hi

/-- A window with these characters put in from place `i` on. -/
def putFrom (i : Nat) (cs : List Byte) (w : Window) : Window :=
  match cs with
  | [] => w
  | c :: rest => putFrom (i + 1) rest (setWindowChar w (Fin.ofNat 8 i) c)

/-- A load in its window fill, `i` characters in the window `w`. -/
def fillState (s : State) (i : Nat) (w : Window) (l : List StreamItem) : State :=
  { s with inp := l, ldr := { s.ldr with w := w, phase := fillPhase i } }

theorem step_fillState {s : State} {i : Nat} (hmode : s.opmode = .load) (hhost : s.host = []) (hi : i < 8) (w : Window)
    (c : Byte) (l : List StreamItem) :
    step (fillState s i w (.char c :: l)) = .next (fillState s (i + 1) (setWindowChar w (Fin.ofNat 8 i) c) l) := by
  have hplace : Fin.ofNat 8 i = ⟨i, hi⟩ := Fin.ext (Nat.mod_eq_of_lt hi)
  rw [step_of_load (s := fillState s i w (.char c :: l)) hmode hhost,
    loadStep_of_fill (s := fillState s i w (.char c :: l)) (fillPhase_of_lt hi), recvChar_char rfl, hplace]
  rfl

/-- The characters that complete a window are put in, one a step. -/
theorem run_fillState {s : State} (hmode : s.opmode = .load) (hhost : s.host = []) (l : List StreamItem)
    (cs : List Byte) : ∀ (i : Nat) (w : Window), i + cs.length = 8 →
    Host.Core.run core cs.length (fillState s i w (cs.map .char ++ l)) = .next (fillState s 8 (putFrom i cs w) l) := by
  induction cs with
  | nil =>
    rintro i w rfl
    rfl
  | cons c rest ih =>
    intro i w hlength
    rw [List.length_cons] at hlength
    exact (run_succ (step_fillState hmode hhost (by omega) w c _) _).trans (ih (i + 1) _ (by omega))

/-- Settles O49: the fill begins with the window empty and ends with eight characters in it. -/
theorem windowIsFilledInOrder : Obligations.WindowIsFilledInOrder := by
  intro s c0 c1 c2 c3 c4 c5 c6 c7 rest hmode hhost hphase hinp
  have hstate : s = fillState s 0 s.ldr.w ([c0, c1, c2, c3, c4, c5, c6, c7].map .char ++ rest) := by
    rw [fillState, fillPhase_of_lt (by decide)]
    exact hinp ▸ hphase ▸ rfl
  have hfill := run_fillState hmode hhost rest [c0, c1, c2, c3, c4, c5, c6, c7] 0 s.ldr.w rfl
  exact (congrArg _ hstate).trans hfill

/-- Settles O50: the step takes a character for the window, which is shifted. -/
theorem scanSlidesByOneCharacter : Obligations.ScanSlidesByOneCharacter := by
  intro s c rest hmode hhost hphase hwindow hinp
  rw [step_of_load hmode hhost, loadStep_of_slide hphase hwindow, recvChar_char hinp]
  rfl

/-- Settles O51: wherever the load needs a character, it takes the signal. -/
theorem endOfStreamEndsTheLoad : Obligations.EndOfStreamEndsTheLoad := fun _ _ hneeds hhost hinp =>
  (step_of_load hneeds.1 hhost).trans (loadStep_endOfStream hneeds hinp)

/-! ### S9, and headers that begin no record -/

/-- Settles O52: the meaning of `S9` is the end of the load, which has no argument from the window. -/
theorem terminatorEndsTheLoad : Obligations.TerminatorEndsTheLoad := fun _ _ _ _ _ _ _ => rfl

/-- Settles O53: the meaning of `S1` goes on only where all three pairs decode. -/
theorem badHeaderIsFormatError : Obligations.BadHeaderIsFormatError := by
  intro s c2 c3 c4 c5 c6 c7 hbad
  change execS1 c2 c3 c4 c5 c6 c7 s = .next (raise (.format s.ldr.line) s)
  unfold execS1
  split
  · next hn hah hal =>
    rw [hn, hah, hal] at hbad
    rcases hbad with h | h | h <;> cases h
  · rfl

/-- A hex character's digit (R84). -/
theorem hexVal_hexChar {n : Nat} (hn : n < 16) : hexVal (hexChar n) = some (BitVec.ofNat 8 n) := by
  interval_cases n <;> rfl

/-- A byte's two characters are its hex pair. -/
theorem hexPair_chars (b : Byte) : hexPair (hiChar b) (loChar b) = some b := by
  have hb := b.isLt
  have hhi : hexVal (hiChar b) = some (BitVec.ofNat 8 (b.toNat / 16)) := hexVal_hexChar (by omega)
  have hlo : hexVal (loChar b) = some (BitVec.ofNat 8 (b.toNat % 16)) := hexVal_hexChar (by omega)
  rw [hexPair_of_digits hhi hlo]
  have hvalue : (16 : Byte) * BitVec.ofNat 8 (b.toNat / 16) + BitVec.ofNat 8 (b.toNat % 16) = b := by
    rw [show (16 : Byte) = BitVec.ofNat 8 16 from rfl, ← BitVec.ofNat_mul, ← BitVec.ofNat_add, Nat.div_add_mod]
    exact BitVec.ofNat_toNat 8 b
  rw [hvalue]

/-- An `S1` whose header is written in hex runs as the data record of that header. -/
theorem exec_recordOf (n ah al : Byte) (s : State) : exec (recordOf n ah al) s = .next (dataRecord n ah al s) := by
  change execS1 (hiChar n) (loChar n) (hiChar ah) (loChar ah) (hiChar al) (loChar al) s = _
  simp only [execS1, hexPair_chars]

/-- The loader's registers after a header in the load window (R188 to R192). -/
def afterHeader (n ah al : Byte) (s : State) : State :=
  seedRecord n ah al { s with ldr := { s.ldr with n := n, la := wordOf ah al } }

theorem dataRecord_inside {n ah al : Byte} {s : State} (hwindow : inLoadWindow s.cfg (wordOf ah al) = true) :
    dataRecord n ah al s = runRecord s.inp (afterHeader n ah al s) := if_pos hwindow

theorem dataRecord_outside {n ah al : Byte} {s : State} (hwindow : inLoadWindow s.cfg (wordOf ah al) = false) :
    dataRecord n ah al s = raise (.bounds (some s.ldr.line) (wordOf ah al) s.cfg.lfStart s.cfg.lfMax)
      { s with ldr := { s.ldr with n := n, la := wordOf ah al } } :=
  if_neg (by simp [hwindow])

/-- Settles O55: the header decodes, and its load address fails the check. -/
theorem addressOutsideLoadWindowIsBoundsError : Obligations.AddressOutsideLoadWindowIsBoundsError :=
  fun s n ah al hwindow => (exec_recordOf n ah al s).trans (congrArg _ (dataRecord_outside hwindow))

end Sys2Proof.Machine
end

section
/-! PROOF. A data record over the characters at hand: O54, O59. -/

namespace Sys2Proof.Machine

/-! ### One character of a record, whatever the stream holds behind it -/

theorem commitByte_withInp (d : Byte) (s : State) (l : List StreamItem) :
    commitByte d { s with inp := l } = (commitByte d s).map fun u => { u with inp := l } := by
  rcases commitByte_cases d s with ⟨hcommit, hwindow, e⟩ | ⟨hcommit, hwindow, e⟩ | ⟨hcommit, e⟩ <;>
    rw [e] <;> simp [commitByte, memWrite, Except.map, *]

theorem dataPair_withInp (left : Nat) (c1 c2 : Byte) (s : State) (l : List StreamItem) :
    dataPair left c1 c2 { s with inp := l } =
      ({ (dataPair left c1 c2 s).1 with inp := l }, (dataPair left c1 c2 s).2) := by
  unfold dataPair
  cases hexPair c1 c2 with
  | none => rfl
  | some d =>
    simp only [dataByte]
    rw [commitByte_withInp d { s with ldr := { s.ldr with acc := s.ldr.acc + d } } l]
    cases commitByte d { s with ldr := { s.ldr with acc := s.ldr.acc + d } } <;> rfl

theorem checkPair_withInp (c1 c2 : Byte) (s : State) (l : List StreamItem) :
    checkPair c1 c2 { s with inp := l } = { checkPair c1 c2 s with inp := l } := by
  unfold checkPair
  cases hexPair c1 c2 with
  | none => rfl
  | some t =>
    simp only [checkRecord]
    split
    · rfl
    · unfold acceptRecord
      cases s.cfg.lineCommit <;> rfl

theorem recordChar_withInp (c : Byte) (s : State) (l : List StreamItem) :
    recordChar c { s with inp := l } = ({ (recordChar c s).1 with inp := l }, (recordChar c s).2) := by
  unfold recordChar
  cases hphase : s.ldr.phase with
  | data left hi =>
    cases hi with
    | none => rfl
    | some h => simpa only [hphase] using dataPair_withInp left h c s l
  | check hi =>
    cases hi with
    | none => rfl
    | some h => simpa only [hphase] using congrArg (·, false) (checkPair_withInp h c s l)
  | _ => rfl

/-- A record is run over the characters it is given, not over those in `IN`. -/
theorem runRecord_withInp (l l' : List StreamItem) (s : State) :
    runRecord l { s with inp := l' } = runRecord l s := by
  match l with
  | [] | .eos :: _ | .char _ :: _ => rfl

/-- A record's next character: it goes on with the rest, or leaves the rest in the stream. -/
theorem runRecord_char (c : Byte) (rest : List StreamItem) (s : State) :
    runRecord (.char c :: rest) s =
      if (recordChar c s).2 then runRecord rest (recordChar c s).1 else { (recordChar c s).1 with inp := rest } := by
  rw [runRecord, recordChar_withInp]
  simp only [runRecord_withInp]

/-- The load moved to another phase. -/
def withPhase (p : LoadPhase) (s : State) : State := { s with ldr := { s.ldr with phase := p } }

/-- A data pair's two characters: both are taken before the pair is decoded (R184, R193). -/
theorem runRecord_dataPair {s : State} {left : Nat} (hphase : s.ldr.phase = .data left none) (c1 c2 : Byte)
    (rest : List StreamItem) :
    runRecord (.char c1 :: .char c2 :: rest) s =
      let r := dataPair left c1 c2 (withPhase (.data left (some c1)) s)
      if r.2 then runRecord rest r.1 else { r.1 with inp := rest } := by
  have hfirst : recordChar c1 s = (withPhase (.data left (some c1)) s, true) := by
    simp only [recordChar, hphase, withPhase]
  rw [runRecord_char, hfirst, if_pos rfl, runRecord_char]
  rfl

/-- The checksum pair's two characters, after which the record takes no more (R195). -/
theorem runRecord_checkPair {s : State} (hphase : s.ldr.phase = .check none) (c1 c2 : Byte) (rest : List StreamItem) :
    runRecord (.char c1 :: .char c2 :: rest) s =
      { checkPair c1 c2 (withPhase (.check (some c1)) s) with inp := rest } := by
  have hfirst : recordChar c1 s = (withPhase (.check (some c1)) s, true) := by
    simp only [recordChar, hphase, withPhase]
  rw [runRecord_char, hfirst, if_pos rfl, runRecord_char]
  rfl

/-- Settles O54: the record takes the pair's two characters, and the pair fails. -/
theorem badPairInRecordIsFormatError : Obligations.BadPairInRecordIsFormatError := by
  intro s c1 c2 rest hmode hhost hpair hinp
  refine ⟨fun left hphase => ?_, fun hphase => ?_⟩
  · rw [step_of_load hmode hhost, loadStep_of_inRecord (.inl ⟨left, none, hphase⟩), hinp, runRecord_dataPair hphase,
      dataPair, hpair]
    rfl
  · rw [step_of_load hmode hhost, loadStep_of_inRecord (.inr ⟨none, hphase⟩), hinp, runRecord_checkPair hphase,
      checkPair, hpair]
    rfl

/-! ### A record in two pieces -/

theorem midRecord_pairPhase {s : State} {left : Nat} (hmode : s.opmode = .load)
    (hphase : s.ldr.phase = pairPhase left) : MidRecord s := by
  refine ⟨hmode, ?_⟩
  unfold pairPhase at hphase
  split at hphase
  · exact .inr ⟨none, hphase⟩
  · exact .inl ⟨left, none, hphase⟩

theorem not_midRecord_raise (e : Error) (s : State) : ¬ MidRecord (raise e s) := fun h => nomatch h.1

/-- A record that takes another character after this one is where it was, in the record; one that does not has ended. -/
theorem RecordCharStep.midRecord_iff {c : Byte} {s : State} {p : State × Bool} (hstep : RecordCharStep c s p)
    (hmid : MidRecord s) : MidRecord p.1 ↔ p.2 = true := by
  obtain ⟨hmode, hin⟩ := hmid
  cases hstep with
  | notInRecord hphase =>
    rcases hin with ⟨left, hi, h⟩ | ⟨hi, h⟩ <;> rcases hphase with ⟨i, h'⟩ | h' | h' <;> cases h.symm.trans h'
  | rejected e r => exact iff_of_false (not_midRecord_raise e _) nofun
  | dataHalf left => exact iff_of_true ⟨hmode, .inl ⟨left, some c, rfl⟩⟩ rfl
  | checkHalf => exact iff_of_true ⟨hmode, .inr ⟨some c, rfl⟩⟩ rfl
  | written => exact iff_of_true (midRecord_pairPhase hmode rfl) rfl
  | buffered => exact iff_of_true (midRecord_pairPhase hmode rfl) rfl
  | accepted => exact iff_of_false (by simp [MidRecord]) nofun
  | acceptedBuffered => exact iff_of_false (by simp [MidRecord]) nofun

/-- A record over two pieces, by induction on the first: what is left of it goes on over the second; once it has ended,
the second stays in the stream. -/
theorem runRecord_append (ys : List StreamItem) (xs : List StreamItem) : ∀ s : State, MidRecord s →
    (MidRecord (runRecord xs s) → runRecord (xs ++ ys) s = runRecord ys (runRecord xs s)) ∧
    (¬ MidRecord (runRecord xs s) →
      runRecord (xs ++ ys) s = { runRecord xs s with inp := (runRecord xs s).inp ++ ys }) := by
  induction xs with
  | nil => exact fun s hmid => ⟨fun _ => (runRecord_withInp ys [] s).symm, fun hnot => absurd hmid hnot⟩
  | cons x rest ih =>
    intro s hmid
    cases x with
    | eos => exact ⟨fun h => absurd h (not_midRecord_raise _ _), fun _ => rfl⟩
    | char c =>
      have hiff := (recordChar_step c s).midRecord_iff hmid
      rw [List.cons_append, runRecord_char, runRecord_char]
      split
      · next hmore => exact ih _ (hiff.mpr hmore)
      · next hends => exact ⟨fun h => absurd (hiff.mp h) hends, fun _ => rfl⟩

/-- A step in a record is the record's run over the characters at hand. -/
theorem step_of_midRecord {s : State} (hmid : MidRecord s) (hhost : s.host = []) (l : List StreamItem) :
    step { s with inp := l } = .next (runRecord l s) := by
  obtain ⟨hmode, hphase⟩ : MidRecord { s with inp := l } := hmid
  rw [step_of_load hmode hhost, loadStep_of_inRecord hphase, runRecord_withInp]

/-- What `S1` can do with a header, whatever characters follow it: the record begins, or an error takes none of them. -/
theorem execS1_cases (c2 c3 c4 c5 c6 c7 : Byte) (s : State) :
    (∃ n ah al, ∀ l, execS1 c2 c3 c4 c5 c6 c7 { s with inp := l } = .next (runRecord l (afterHeader n ah al s))) ∨
    ∃ e r, ∀ l, execS1 c2 c3 c4 c5 c6 c7 { s with inp := l } = .next (raise e { s with inp := l, ldr := r }) := by
  unfold execS1
  split
  · next n ah al _ _ _ =>
    cases hwindow : inLoadWindow s.cfg (wordOf ah al) with
    | true =>
      refine .inl ⟨n, ah, al, fun l => ?_⟩
      rw [dataRecord_inside (s := { s with inp := l }) hwindow]
      exact congrArg _ (runRecord_withInp l l (afterHeader n ah al s))
    | false =>
      refine .inr ⟨.bounds (some s.ldr.line) (wordOf ah al) s.cfg.lfStart s.cfg.lfMax,
        { s.ldr with n := n, la := wordOf ah al }, fun l => ?_⟩
      exact congrArg _ (dataRecord_outside (s := { s with inp := l }) hwindow)
  · exact .inr ⟨.format s.ldr.line, s.ldr, fun _ => rfl⟩

/-- A step that starts a record or stands inside one is the record's run from a state inside it, or an error that takes
no character. -/
theorem step_record_cases {s : State} (h : StartsRecord s ∨ MidRecord s) (hhost : s.host = []) :
    (∃ u, MidRecord u ∧ u.host = [] ∧ ∀ l, step { s with inp := l } = .next (runRecord l u)) ∨
    ∃ e r, ∀ l, step { s with inp := l } = .next (raise e { s with inp := l, ldr := r }) := by
  rcases h with ⟨hmode, hphase, c2, c3, c4, c5, c6, c7, hwindow⟩ | hmid
  · have hstep (l : List StreamItem) : step { s with inp := l } = execS1 c2 c3 c4 c5 c6 c7 { s with inp := l } :=
      (step_of_load (s := { s with inp := l }) hmode hhost).trans
        (loadStep_of_record (s := { s with inp := l }) hphase hwindow)
    rcases execS1_cases c2 c3 c4 c5 c6 c7 s with ⟨n, ah, al, e⟩ | ⟨e, r, hraise⟩
    · have hmid : MidRecord (afterHeader n ah al s) := midRecord_pairPhase (left := n.toNat - 3) hmode rfl
      exact .inl ⟨_, hmid, hhost, fun l => (hstep l).trans (e l)⟩
    · exact .inr ⟨e, r, fun l => (hstep l).trans (hraise l)⟩
  · exact .inl ⟨s, hmid, hhost, step_of_midRecord hmid hhost⟩

/-- The accumulator's seed is the sum of the header's pairs, in whatever order (R87, R191). -/
theorem header_sum (n ah al : Byte) : ah + al + n = n + ah + al := by
  rw [BitVec.add_comm, ← BitVec.add_assoc]

/-- With no character at hand a record that begins waits at its first pair (R182, R190 to R192). -/
theorem exec_recordOf_waits {n ah al : Byte} {s : State} (hwindow : inLoadWindow s.cfg (wordOf ah al) = true)
    (hinp : s.inp = []) : exec (recordOf n ah al) s = .next (afterHeader n ah al s) := by
  rw [exec_recordOf, dataRecord_inside hwindow, hinp, runRecord]
  rw [← hinp]
  rfl

/-- Settles O59: a record that begins waits where it has no character; and a step over a record is its run from a state
inside it, which can be cut in two. -/
theorem recordInPiecesIsTheSameRecord : Obligations.RecordInPiecesIsTheSameRecord := by
  refine ⟨fun s n ah al hwindow hinp => ?_, fun s t xs ys hrecord hhost hstep => ?_⟩
  · rw [exec_recordOf_waits hwindow hinp, afterHeader, seedRecord, header_sum, pairPhase]
    simp only [Nat.sub_eq_zero_iff_le]
  · rcases step_record_cases hrecord hhost with ⟨u, hmid, hhostu, hrun⟩ | ⟨e, r, hraise⟩
    · obtain rfl : runRecord xs u = t := Host.Outcome.next.inj ((hrun xs).symm.trans hstep)
      obtain ⟨hgoesOn, hended⟩ := runRecord_append ys xs u hmid
      obtain ⟨-, -, -, hhostt, -⟩ := runRecord_frame xs u
      refine ⟨fun hmidt => ?_, fun hnot => ?_⟩
      · rw [hrun, hgoesOn hmidt, step_of_midRecord hmidt (hhostt.trans hhostu)]
      · rw [hrun, hended hnot]
    · obtain rfl : raise e { s with inp := xs, ldr := r } = t := Host.Outcome.next.inj ((hraise xs).symm.trans hstep)
      exact ⟨fun hmidt => absurd hmidt (not_midRecord_raise e _), fun _ => hraise (xs ++ ys)⟩

end Sys2Proof.Machine
end

section
/-! PROOF. Which addresses a load writes: O60. -/

namespace Sys2Proof.Machine

/-- Memory `m'` differs from `m` only at addresses from LF_START to MAX (R201). -/
def SameOutside (c : Config) (m m' : Memory) : Prop :=
  ∀ a, a < c.lfStart.toNat ∨ c.max.toNat < a → Memory.read m' a = Memory.read m a

theorem SameOutside.refl (c : Config) (m : Memory) : SameOutside c m m := fun _ _ => rfl

theorem SameOutside.trans {c : Config} {m m' m'' : Memory} (h : SameOutside c m m') (h' : SameOutside c m' m'') :
    SameOutside c m m'' := fun a ha => (h' a ha).trans (h a ha)

theorem sameOutside_write {c : Config} {a : Addr} (hlo : c.lfStart ≤ a) (hin : inWindow c a = true) (m : Memory)
    (v : Byte) : SameOutside c m (m.write a.toNat v) := by
  intro x hx
  obtain ⟨-, hmax⟩ := (inWindow_iff c a).mp hin
  rw [BitVec.le_def] at hlo
  rw [read_write, if_neg (by omega)]

theorem RecordCharStep.sameOutside {c : Byte} {s : State} {p : State × Bool} (hstep : RecordCharStep c s p)
    (hmode : s.opmode = .load) (h : Inv s) : SameOutside s.cfg s.mem p.1.mem := by
  cases hstep with
  | written left hi d hphase hpair hcommit hwindow =>
    obtain ⟨-, ⟨-, -, hcursor⟩, hla, -, -⟩ := (loaderSound_data hphase).mp (h.loaderSound hmode)
    refine sameOutside_write ?_ hwindow s.mem d
    rw [BitVec.le_def] at hla ⊢
    omega
  | _ => exact .refl _ _

/-- A data record writes only there, by induction on the characters at hand: the invariant keeps its cursor in range. -/
theorem runRecord_sameOutside (l : List StreamItem) : ∀ s : State, s.opmode = .load → Inv s →
    SameOutside s.cfg s.mem (runRecord l s).mem := by
  induction l with
  | nil => exact fun s _ _ => .refl _ _
  | cons x rest ih =>
    intro s hmode h
    cases x with
    | eos => exact .refl _ _
    | char c =>
      have hstep := recordChar_step c s
      have hchar := hstep.sameOutside hmode h
      rw [runRecord_char]
      split
      · next hmore =>
        have hcfg : (recordChar c s).1.cfg = s.cfg := (recordChar_frame c s).1
        have hnext : (recordChar c s).1.opmode = .load := by
          rcases recordChar_mode c s with hsame | ⟨hends, -⟩
          · exact hsame.trans hmode
          · exact absurd (hends.symm.trans hmore) (by decide)
        exact hchar.trans (hcfg ▸ ih _ hnext (hstep.inv hmode h))
      · exact hchar

theorem commitNext_sameOutside {s : State} (hmode : s.opmode = .load) (hphase : s.ldr.phase = .commit) (h : Inv s) :
    SameOutside s.cfg s.mem (commitNext s).mem := by
  obtain ⟨-, -, -, hbuf⟩ := (loaderSound_commit hphase).mp (h.loaderSound hmode)
  rcases commitNext_cases s with ⟨-, e⟩ | ⟨a, d, rest, hcons, hwindow, e⟩ | ⟨_, _, _, -, -, e⟩ <;> rw [e]
  · exact .refl _ _
  · have hlo : s.cfg.lfStart ≤ a := hbuf (a, d) (hcons ▸ List.mem_cons_self)
    exact sameOutside_write hlo hwindow s.mem d
  · exact .refl _ _

theorem LoadStep.sameOutside {s t : State} (hstep : LoadStep s t) (hmode : s.opmode = .load) (h : Inv s) :
    SameOutside s.cfg s.mem t.mem := by
  cases hstep with
  | starts n ah al hphase hwindow =>
    refine runRecord_sameOutside s.inp (afterHeader n ah al s) hmode ?_
    exact h.sound.load_inv hmode rfl rfl rfl rfl (seedRecord_loaderSound hwindow s (h.lineFromOne hmode))
  | goesOn => exact runRecord_sameOutside s.inp s hmode h
  | commits hphase => exact commitNext_sameOutside hmode hphase h
  | _ => exact .refl _ _

/-- Settles O60: in a load the host's write must wait, and each case of a load's step writes only in that range. -/
theorem loadWritesOnlyFromLoadStartToMax : Obligations.LoadWritesOnlyFromLoadStartToMax := by
  intro s t a h hmode hstep
  suffices hsame : SameOutside s.cfg s.mem t.mem from hsame a
  cases machineStep_of_step hstep with
  | host m rest hhost hready =>
    rcases hostMove_mem m { s with host := rest } with hkept | ⟨b, v, rfl⟩
    · rw [hkept]
      exact .refl _ _
    · rw [hmode] at hready
      cases hready
  | block l t hblock =>
    cases hblock with
    | idle => exact .refl _ _
    | decode t hdecode => rcases hdecode with e | e <;> cases hmode.symm.trans e
    | load t _ hload => exact hload.sameOutside hmode (h.withHost l)

end Sys2Proof.Machine
end

section
/-! PROOF. A data record whose data are written through, or buffered and written a step each: O56, O58. -/

namespace Sys2Proof.Machine

/-! ### Addresses and bytes placed in memory -/

theorem ofNat_succ_addr (a : Nat) : BitVec.ofNat 16 (a + 1) = BitVec.ofNat 16 a + 1 := BitVec.ofNat_add a 1

theorem addr_ofNat_toNat (a : Addr) : BitVec.ofNat 16 a.toNat = a := BitVec.ofNat_toNat 16 a

/-- Address arithmetic wraps where the number does (R58). -/
theorem addr_add_ofNat (a : Addr) (k : Nat) : a + BitVec.ofNat 16 k = BitVec.ofNat 16 (a.toNat + k) := by
  rw [BitVec.ofNat_add, addr_ofNat_toNat]

/-- An address of the valid window, as a number that never wraps (R50, R58). -/
theorem inWindow_ofNat {c : Config} {a : Nat} (hlo : c.min.toNat ≤ a) (hhi : a ≤ c.max.toNat) :
    (BitVec.ofNat 16 a).toNat = a ∧ inWindow c (BitVec.ofNat 16 a) = true := by
  have hmax := c.max.isLt
  have hvalue : (BitVec.ofNat 16 a).toNat = a := Nat.mod_eq_of_lt (by omega)
  exact ⟨hvalue, (inWindow_iff c _).mpr (by omega)⟩

/-- The address after MAX, where it is one, is outside the valid window. -/
theorem inWindow_pastMax {c : Config} (hmax : c.max.toNat < 65535) : inWindow c (c.max + 1) = false := by
  have hvalue : (c.max + 1).toNat = c.max.toNat + 1 := by
    rw [BitVec.toNat_add]
    exact Nat.mod_eq_of_lt (Nat.succ_lt_succ hmax)
  rw [Bool.eq_false_iff]
  intro h
  obtain ⟨-, hle⟩ := (inWindow_iff c _).mp h
  omega

/-- A load address that passed the check is at MIN or above (R189, R264). -/
theorem min_le_of_inLoadWindow {c : Config} (hadmissible : c.Admissible) {a : Addr}
    (hwindow : inLoadWindow c a = true) : c.min.toNat ≤ a.toNat := by
  obtain ⟨-, hmin, -⟩ := hadmissible
  obtain ⟨hlo, -⟩ := (inLoadWindow_iff c a).mp hwindow
  rw [BitVec.le_def] at hmin
  omega

theorem Stored.cons {m m' : Memory} {a : Nat} {d : Byte} {ds : List Byte} (h : Stored (m.write a d) m' (a + 1) ds) :
    Stored m m' a (d :: ds) := by
  obtain ⟨hstored, hframe⟩ := h
  refine ⟨fun j hj => ?_, fun x hx => ?_⟩
  · cases j with
    | zero => rw [Nat.add_zero, hframe a (by omega), read_write, if_pos rfl, List.getElem_cons_zero]
    | succ j =>
      rw [List.length_cons] at hj
      rw [List.getElem_cons_succ, ← hstored j (by omega), Nat.succ_add_eq_add_succ]
  · rw [List.length_cons] at hx
    rw [hframe x (by omega), read_write, if_neg (by omega)]

theorem stored_placeBytes (ds : List Byte) : ∀ (a : Nat) (m : Memory), Stored m (placeBytes ds a m) a ds := by
  induction ds with
  | nil => exact fun _ _ => ⟨nofun, fun _ _ => rfl⟩
  | cons d rest ih => exact fun a m => (ih (a + 1) (m.write a d)).cons

/-! ### The line buffer -/

theorem bufferOf_append (ds ds' : List Byte) : ∀ a : Addr,
    bufferOf a (ds ++ ds') = bufferOf a ds ++ bufferOf (a + BitVec.ofNat 16 ds.length) ds' := by
  induction ds with
  | nil => exact fun a => by rw [List.length_nil, BitVec.add_zero]; rfl
  | cons d rest ih =>
    intro a
    rw [List.length_cons, ofNat_succ_addr, BitVec.add_comm _ 1, ← BitVec.add_assoc]
    exact congrArg _ (ih (a + 1))

theorem length_bufferOf (ds : List Byte) : ∀ a : Addr, (bufferOf a ds).length = ds.length := by
  induction ds with
  | nil => exact fun _ => rfl
  | cons d rest ih => exact fun a => congrArg (· + 1) (ih (a + 1))

/-- What is left of a line buffer after its first `j` writes, behind the bytes that those write. -/
theorem bufferOf_split (a : Addr) (ds : List Byte) {j : Nat} (hj : j ≤ ds.length) :
    bufferOf a ds = bufferOf a (ds.take j) ++ (bufferOf a ds).drop j := by
  have hlength : (bufferOf a (ds.take j)).length = j := by rw [length_bufferOf, List.length_take_of_le hj]
  have hsplit := bufferOf_append (ds.take j) (ds.drop j) a
  rw [List.take_append_drop] at hsplit
  rw [hsplit, List.drop_left' hlength]

/-! ### The bytes of a record -/

/-- A data byte written through inside the valid window (R193). -/
theorem dataByte_written {s : State} (hcommit : s.cfg.lineCommit = .writeThrough)
    (hwindow : inWindow s.cfg s.ldr.wc = true) (left : Nat) (d : Byte) :
    dataByte left d s = ({ s with
      mem := s.mem.write s.ldr.wc.toNat d
      ldr := { s.ldr with
        acc := s.ldr.acc + d, written := s.ldr.written + 1, wc := s.ldr.wc + 1, phase := pairPhase (left - 1) } },
      true) := by
  simp only [dataByte, commitByte, hcommit, memWrite, hwindow, if_true]

/-- A data byte written through outside the valid window ends the load (R194). -/
theorem dataByte_rejected {s : State} (hcommit : s.cfg.lineCommit = .writeThrough)
    (hwindow : inWindow s.cfg s.ldr.wc = false) (left : Nat) (d : Byte) :
    dataByte left d s = (raise (.bounds (some s.ldr.line) s.ldr.wc s.cfg.min s.cfg.max)
      { s with ldr := { s.ldr with acc := s.ldr.acc + d } }, false) := by
  simp only [dataByte, commitByte, hcommit, memWrite, hwindow, Bool.false_eq_true, if_false]

/-- A buffered data byte goes into the line buffer with its address (R199). -/
theorem dataByte_buffered {s : State} (hcommit : s.cfg.lineCommit = .buffered) (left : Nat) (d : Byte) :
    dataByte left d s = ({ s with
      ldr := { s.ldr with
        acc := s.ldr.acc + d, lineBuf := s.ldr.lineBuf ++ [(s.ldr.wc, d)], wc := s.ldr.wc + 1
        phase := pairPhase (left - 1) } }, true) := by
  simp only [dataByte, commitByte, hcommit]

/-- A data byte in hex: its two characters are taken, then it is added and written or buffered (R184, R193). -/
theorem runRecord_dataByte {s : State} {left : Nat} (hphase : s.ldr.phase = pairPhase (left + 1)) {d : Byte}
    {p : State × Bool}
    (hbyte : dataByte (left + 1) d (withPhase (.data (left + 1) (some (hiChar d))) s) = p)
    (l : List StreamItem) :
    runRecord (pairsOf [d] ++ l) s = if p.2 then runRecord l p.1 else { p.1 with inp := l } := by
  refine (runRecord_dataPair hphase (hiChar d) (loChar d) l).trans ?_
  simp only [dataPair, hexPair_chars, hbyte]

/-- A load in a record, after data bytes that were written through from address `a` on, with `left` pairs to go. -/
def afterWritten (s : State) (a : Nat) (ds : List Byte) (left : Nat) : State :=
  { s with
    mem := placeBytes ds a s.mem
    ldr := { s.ldr with
      acc := ds.foldl (fun acc d => acc + d) s.ldr.acc, written := s.ldr.written + ds.length
      wc := BitVec.ofNat 16 (a + ds.length), phase := pairPhase left } }

/-- A load in a record, after data bytes that went into the line buffer, with `left` pairs to go. -/
def afterBuffered (s : State) (ds : List Byte) (left : Nat) : State :=
  { s with
    ldr := { s.ldr with
      acc := ds.foldl (fun acc d => acc + d) s.ldr.acc, wc := s.ldr.wc + BitVec.ofNat 16 ds.length
      lineBuf := s.ldr.lineBuf ++ bufferOf s.ldr.wc ds, phase := pairPhase left } }

theorem afterWritten_nil {s : State} {a left : Nat} (hphase : s.ldr.phase = pairPhase left)
    (hwc : s.ldr.wc = BitVec.ofNat 16 a) : afterWritten s a [] left = s := by
  rw [afterWritten, List.length_nil, Nat.add_zero, ← hwc, ← hphase]
  rfl

theorem afterWritten_cons (s : State) (a left : Nat) (d : Byte) (ds : List Byte) :
    afterWritten (afterWritten s a [d] (left + ds.length)) (a + 1) ds left = afterWritten s a (d :: ds) left := by
  simp only [afterWritten, List.length_cons, List.length_nil, Nat.zero_add, Nat.add_assoc, Nat.add_comm 1]
  rfl

theorem afterBuffered_nil {s : State} {left : Nat} (hphase : s.ldr.phase = pairPhase left) :
    afterBuffered s [] left = s := by
  rw [afterBuffered, List.length_nil, BitVec.add_zero, bufferOf, List.append_nil, ← hphase]
  rfl

theorem afterBuffered_cons (s : State) (left : Nat) (d : Byte) (ds : List Byte) :
    afterBuffered (afterBuffered s [d] (left + ds.length)) ds left = afterBuffered s (d :: ds) left := by
  have hwc : s.ldr.wc + 1 + BitVec.ofNat 16 ds.length = s.ldr.wc + BitVec.ofNat 16 (ds.length + 1) := by
    rw [ofNat_succ_addr, BitVec.add_assoc, BitVec.add_comm 1]
  simp only [afterBuffered, List.length_cons, List.length_nil, ← hwc, List.append_assoc]
  rfl

/-- A data byte whose address lies in the valid window is written through. -/
theorem runRecord_writesByte {s : State} {left : Nat} (hcommit : s.cfg.lineCommit = .writeThrough)
    (hphase : s.ldr.phase = pairPhase (left + 1)) (hwindow : inWindow s.cfg s.ldr.wc = true) (d : Byte)
    (l : List StreamItem) :
    runRecord (pairsOf [d] ++ l) s = runRecord l (afterWritten s s.ldr.wc.toNat [d] left) := by
  have hbyte := dataByte_written (s := withPhase (.data (left + 1) (some (hiChar d))) s) hcommit hwindow (left + 1) d
  rw [runRecord_dataByte hphase hbyte, afterWritten, List.length_singleton, ofNat_succ_addr, addr_ofNat_toNat]
  rfl

theorem runRecord_buffersByte {s : State} {left : Nat} (hcommit : s.cfg.lineCommit = .buffered)
    (hphase : s.ldr.phase = pairPhase (left + 1)) (d : Byte) (l : List StreamItem) :
    runRecord (pairsOf [d] ++ l) s = runRecord l (afterBuffered s [d] left) := by
  have hbyte := dataByte_buffered (s := withPhase (.data (left + 1) (some (hiChar d))) s) hcommit (left + 1) d
  rw [runRecord_dataByte hphase hbyte]
  rfl

/-- Data bytes whose addresses lie in the valid window are written through, by induction on them. -/
theorem runRecord_writes (left : Nat) (l : List StreamItem) (ds : List Byte) : ∀ (s : State) (a : Nat),
    s.cfg.lineCommit = .writeThrough → s.ldr.phase = pairPhase (left + ds.length) → s.ldr.wc = BitVec.ofNat 16 a →
    s.cfg.min.toNat ≤ a → a + ds.length ≤ s.cfg.max.toNat + 1 →
    runRecord (pairsOf ds ++ l) s = runRecord l (afterWritten s a ds left) := by
  induction ds with
  | nil => exact fun s a _ hphase hwc _ _ => congrArg _ (afterWritten_nil hphase hwc).symm
  | cons d ds ih =>
    intro s a hcommit hphase hwc hlo hhi
    rw [List.length_cons] at hhi
    obtain ⟨hvalue, hin⟩ := inWindow_ofNat hlo (c := s.cfg) (by omega)
    rw [← hwc] at hvalue hin
    have hbyte := runRecord_writesByte hcommit hphase hin d (pairsOf ds ++ l)
    rw [hvalue] at hbyte
    have hrest := ih (afterWritten s a [d] (left + ds.length)) (a + 1) hcommit rfl rfl (Nat.le_succ_of_le hlo)
      (by rw [Nat.succ_add_eq_add_succ]; exact hhi)
    exact hbyte.trans (hrest.trans (congrArg _ (afterWritten_cons s a left d ds)))

/-- Buffered data bytes go into the line buffer, wherever their addresses lie, by induction on them. -/
theorem runRecord_buffers (left : Nat) (l : List StreamItem) (ds : List Byte) : ∀ s : State,
    s.cfg.lineCommit = .buffered → s.ldr.phase = pairPhase (left + ds.length) →
    runRecord (pairsOf ds ++ l) s = runRecord l (afterBuffered s ds left) := by
  induction ds with
  | nil => exact fun s _ hphase => congrArg _ (afterBuffered_nil hphase).symm
  | cons d ds ih =>
    intro s hcommit hphase
    have hrest := ih (afterBuffered s [d] (left + ds.length)) hcommit rfl
    exact (runRecord_buffersByte hcommit hphase d _).trans (hrest.trans (congrArg _ (afterBuffered_cons s left d ds)))

/-! ### A record whose checksum is accepted -/

/-- The checksum pair of a record whose sum it matches is accepted (R195, R196). -/
theorem checkPair_accepts {s : State} {t : Byte} (hsum : t = ~~~ s.ldr.acc) (hnonzero : t ≠ 0x00) :
    checkPair (hiChar t) (loChar t) s = acceptRecord { s with ldr := { s.ldr with t := t, f := t } } := by
  have hcheck : ¬ (t ≠ t ∨ t = 0x00) := by simpa using hnonzero
  simp only [checkPair, hexPair_chars, checkRecord, ← hsum, if_neg hcheck]

/-- Written through, the accepted record is done (R197). -/
theorem runRecord_loads {s : State} {t : Byte} (hcommit : s.cfg.lineCommit = .writeThrough)
    (hphase : s.ldr.phase = pairPhase 0) (hsum : t = ~~~ s.ldr.acc) (hnonzero : t ≠ 0x00) (l : List StreamItem) :
    runRecord (pairsOf [t] ++ l) s = nextRecord { s with inp := l, ldr := { s.ldr with t := t, f := t } } := by
  refine (runRecord_checkPair hphase (hiChar t) (loChar t) l).trans ?_
  rw [checkPair_accepts (s := withPhase (.check (some (hiChar t))) s) hsum hnonzero, acceptRecord]
  simp only [withPhase, hcommit]
  rfl

/-- Buffered, the accepted record has its writes to make (R199). -/
theorem runRecord_commits {s : State} {t : Byte} (hcommit : s.cfg.lineCommit = .buffered)
    (hphase : s.ldr.phase = pairPhase 0) (hsum : t = ~~~ s.ldr.acc) (hnonzero : t ≠ 0x00) (l : List StreamItem) :
    runRecord (pairsOf [t] ++ l) s =
      { s with inp := l, ldr := { s.ldr with t := t, f := t, phase := .commit } } := by
  refine (runRecord_checkPair hphase (hiChar t) (loChar t) l).trans ?_
  rw [checkPair_accepts (s := withPhase (.check (some (hiChar t))) s) hsum hnonzero, acceptRecord]
  simp only [withPhase, hcommit]

theorem afterHeader_sum (n ah al : Byte) (s : State) (ds : List Byte) :
    ds.foldl (fun acc d => acc + d) (afterHeader n ah al s).ldr.acc = recordSum n ah al ds :=
  congrArg (List.foldl (fun acc d => acc + d) · ds) (header_sum n ah al)

/-- A record in the load window written through, its first data bytes in the valid window: they are stored, and the
record goes on (R192, R193). -/
theorem exec_recordOf_writes {s : State} {n ah al : Byte} {ds : List Byte} {l : List StreamItem} {left : Nat}
    (hadmissible : s.cfg.Admissible) (hwindow : inLoadWindow s.cfg (wordOf ah al) = true)
    (hcommit : s.cfg.lineCommit = .writeThrough) (hlength : n.toNat - 3 = left + ds.length)
    (hmax : (wordOf ah al).toNat + ds.length ≤ s.cfg.max.toNat + 1) (hinp : s.inp = pairsOf ds ++ l) :
    exec (recordOf n ah al) s =
      .next (runRecord l (afterWritten (afterHeader n ah al s) (wordOf ah al).toNat ds left)) := by
  rw [exec_recordOf, dataRecord_inside hwindow, hinp]
  refine congrArg _ (runRecord_writes left l ds (afterHeader n ah al s) _ hcommit ?_ ?_ ?_ hmax)
  · exact congrArg pairPhase hlength
  · exact (addr_ofNat_toNat (wordOf ah al)).symm
  · exact min_le_of_inLoadWindow hadmissible hwindow

/-- A correct record written through: its data are stored and a new window begins (R193 to R197). -/
theorem exec_recordOf_loaded {s : State} {n ah al t : Byte} {ds : List Byte} {rest : List StreamItem}
    (hadmissible : s.cfg.Admissible) (hwindow : inLoadWindow s.cfg (wordOf ah al) = true)
    (hcommit : s.cfg.lineCommit = .writeThrough) (hlength : ds.length = n.toNat - 3)
    (hmax : (wordOf ah al).toNat + ds.length ≤ s.cfg.max.toNat + 1) (hsum : t = ~~~ recordSum n ah al ds)
    (hnonzero : t ≠ 0x00) (hinp : s.inp = pairsOf ds ++ (pairsOf [t] ++ rest)) :
    exec (recordOf n ah al) s =
      .next (loaded s n ah al t ds rest (placeBytes ds (wordOf ah al).toNat s.mem)) := by
  rw [exec_recordOf_writes (left := 0) hadmissible hwindow hcommit (by omega) hmax hinp]
  rw [← afterHeader_sum n ah al s ds] at hsum
  rw [runRecord_loads (s := afterWritten (afterHeader n ah al s) (wordOf ah al).toNat ds 0) hcommit rfl hsum hnonzero,
    loaded, recordRegs, ← afterHeader_sum n ah al s ds, addr_add_ofNat]
  rfl

/-- A correct record buffered: its data are in the line buffer and its writes are to come (R199). -/
theorem exec_recordOf_committing {s : State} {n ah al t : Byte} {ds : List Byte} {rest : List StreamItem}
    (hwindow : inLoadWindow s.cfg (wordOf ah al) = true) (hcommit : s.cfg.lineCommit = .buffered)
    (hlength : ds.length = n.toNat - 3) (hsum : t = ~~~ recordSum n ah al ds) (hnonzero : t ≠ 0x00)
    (hinp : s.inp = pairsOf ds ++ (pairsOf [t] ++ rest)) :
    exec (recordOf n ah al) s = .next (committing s n ah al t ds rest 0 s.mem) := by
  have hphase : (afterHeader n ah al s).ldr.phase = pairPhase (0 + ds.length) := by
    rw [Nat.zero_add, hlength]
    rfl
  rw [← afterHeader_sum n ah al s ds] at hsum
  rw [exec_recordOf, dataRecord_inside hwindow, hinp,
    runRecord_buffers 0 _ ds (afterHeader n ah al s) hcommit hphase,
    runRecord_commits (s := afterBuffered (afterHeader n ah al s) ds 0) hcommit rfl hsum hnonzero, committing,
    recordRegs, ← afterHeader_sum n ah al s ds]
  rfl

/-! ### The buffered writes -/

/-- One step more at the end of a run. -/
theorem run_then_step {s t u : State} {n : Nat} (hrun : Host.Core.run core n s = .next t) (hstep : step t = .next u) :
    Host.Core.run core (n + 1) s = .next u := by
  induction n generalizing s with
  | zero =>
    cases hrun
    exact run_succ hstep 0
  | succ n ih =>
    obtain ⟨v, hv, -⟩ := step_cases s
    rw [run_succ hv] at hrun ⊢
    exact ih hrun

/-- The load `s` while it makes buffered writes: `m` is memory, `w` the bytes written, `buf` the writes to come. -/
def commitState (s : State) (m : Memory) (w : Nat) (buf : List (Addr × Byte)) : State :=
  { s with mem := m, ldr := { s.ldr with written := w, lineBuf := buf, phase := .commit } }

theorem step_commitState {s : State} (hmode : s.opmode = .load) (hhost : s.host = []) (m : Memory) (w : Nat)
    (buf : List (Addr × Byte)) : step (commitState s m w buf) = .next (commitNext (commitState s m w buf)) :=
  (step_of_load (s := commitState s m w buf) hmode hhost).trans (loadStep_of_commit rfl)

theorem commitNext_write {s : State} {a : Addr} (hin : inWindow s.cfg a = true) (m : Memory) (w : Nat) (d : Byte)
    (buf : List (Addr × Byte)) :
    commitNext (commitState s m w ((a, d) :: buf)) = commitState s (m.write a.toNat d) (w + 1) buf := by
  simp only [commitNext, commitState, memWrite, hin, if_true]

theorem commitNext_rejected {s : State} {a : Addr} (hout : inWindow s.cfg a = false) (m : Memory) (w : Nat) (d : Byte)
    (buf : List (Addr × Byte)) :
    commitNext (commitState s m w ((a, d) :: buf)) =
      raise (.bounds (some s.ldr.line) a s.cfg.min s.cfg.max) (commitState s m w ((a, d) :: buf)) := by
  simp only [commitNext, commitState, memWrite, hout, Bool.false_eq_true, if_false]

/-- Buffered writes inside the valid window are made in order, one a step, by induction on them. -/
theorem run_commitState {s : State} (hmode : s.opmode = .load) (hhost : s.host = []) (buf : List (Addr × Byte))
    (ds : List Byte) : ∀ (a : Nat) (m : Memory) (w : Nat), s.cfg.min.toNat ≤ a →
    a + ds.length ≤ s.cfg.max.toNat + 1 →
    Host.Core.run core ds.length (commitState s m w (bufferOf (BitVec.ofNat 16 a) ds ++ buf)) =
      .next (commitState s (placeBytes ds a m) (w + ds.length) buf) := by
  induction ds with
  | nil => exact fun _ _ _ _ _ => rfl
  | cons d ds ih =>
    intro a m w hlo hhi
    rw [List.length_cons] at hhi
    obtain ⟨hvalue, hin⟩ := inWindow_ofNat hlo (c := s.cfg) (by omega)
    have hwrite := commitNext_write hin m w d (bufferOf (BitVec.ofNat 16 a + 1) ds ++ buf)
    have hrest := ih (a + 1) (m.write a d) (w + 1) (by omega) (by omega)
    rw [hvalue, ← ofNat_succ_addr] at hwrite
    rw [Nat.succ_add_eq_add_succ] at hrest
    have hstep := (step_commitState hmode hhost _ _ _).trans (congrArg _ hwrite)
    rw [ofNat_succ_addr] at hstep hrest
    exact (run_succ hstep ds.length).trans hrest

/-- A load left alone while it makes the buffered writes of a record that lie in the valid window (R199). -/
theorem run_committing {s : State} {n ah al t : Byte} {ds : List Byte} {rest : List StreamItem} {j : Nat}
    (hadmissible : s.cfg.Admissible) (hwindow : inLoadWindow s.cfg (wordOf ah al) = true) (hmode : s.opmode = .load)
    (hhost : s.host = []) (hj : j ≤ ds.length) (hmax : (wordOf ah al).toNat + j ≤ s.cfg.max.toNat + 1) :
    Host.Core.run core j (committing s n ah al t ds rest 0 s.mem) =
      .next (committing s n ah al t ds rest j (placeBytes (ds.take j) (wordOf ah al).toNat s.mem)) := by
  have hlength : (ds.take j).length = j := List.length_take_of_le hj
  have hrun := run_commitState (s := committing s n ah al t ds rest 0 s.mem) hmode hhost
    ((bufferOf (wordOf ah al) ds).drop j) (ds.take j) (wordOf ah al).toNat s.mem s.ldr.written
    (min_le_of_inLoadWindow hadmissible hwindow) (by rw [hlength]; exact hmax)
  rw [addr_ofNat_toNat, ← bufferOf_split _ ds hj, hlength] at hrun
  exact hrun

/-- With no write left the record is done (R197, R199). -/
theorem step_committing_done {s : State} (n ah al t : Byte) (ds : List Byte) (rest : List StreamItem)
    (hmode : s.opmode = .load) (hhost : s.host = []) (m : Memory) :
    step (committing s n ah al t ds rest ds.length m) = .next (loaded s n ah al t ds rest m) := by
  have hnone : (bufferOf (wordOf ah al) ds).drop ds.length = [] := List.drop_eq_nil_of_le (length_bufferOf ds _).le
  have hstep := step_commitState (s := committing s n ah al t ds rest ds.length m) hmode hhost m
    (s.ldr.written + ds.length) []
  rw [committing, hnone]
  exact hstep

/-! ### A byte past MAX -/

/-- A data byte whose turn comes past MAX ends the record as soon as its pair is taken (R194). -/
theorem runRecord_pastMax {s : State} {left : Nat} (hcommit : s.cfg.lineCommit = .writeThrough)
    (hphase : s.ldr.phase = pairPhase (left + 1)) (hlast : s.cfg.max.toNat < 65535) (hwc : s.ldr.wc = s.cfg.max + 1)
    (d : Byte) (l : List StreamItem) :
    runRecord (pairsOf [d] ++ l) s =
      raise (.bounds (some s.ldr.line) (s.cfg.max + 1) s.cfg.min s.cfg.max) { s with
        inp := l, ldr := { s.ldr with acc := s.ldr.acc + d, phase := .data (left + 1) (some (hiChar d)) } } := by
  have hout : inWindow s.cfg s.ldr.wc = false := hwc ▸ inWindow_pastMax hlast
  have hbyte := dataByte_rejected (s := withPhase (.data (left + 1) (some (hiChar d))) s) hcommit hout (left + 1) d
  rw [runRecord_dataByte hphase hbyte, ← hwc]
  rfl

/-- The write whose turn comes past MAX ends the load (R194, R199). -/
theorem step_committing_pastMax {s : State} {n ah al t d : Byte} {ds more : List Byte} {rest : List StreamItem}
    (hmode : s.opmode = .load) (hhost : s.host = []) (hlast : s.cfg.max.toNat < 65535)
    (haddr : wordOf ah al + BitVec.ofNat 16 ds.length = s.cfg.max + 1) (m : Memory) :
    step (committing s n ah al t (ds ++ d :: more) rest ds.length m) =
      .next (raise (.bounds (some s.ldr.line) (s.cfg.max + 1) s.cfg.min s.cfg.max)
        (committing s n ah al t (ds ++ d :: more) rest ds.length m)) := by
  have hbuf : (bufferOf (wordOf ah al) (ds ++ d :: more)).drop ds.length =
      (s.cfg.max + 1, d) :: bufferOf (s.cfg.max + 1 + 1) more := by
    rw [bufferOf_append, List.drop_left' (length_bufferOf ds _), haddr, bufferOf]
  have hrejected := commitNext_rejected (s := committing s n ah al t (ds ++ d :: more) rest ds.length m)
    (inWindow_pastMax hlast) m (s.ldr.written + ds.length) d (bufferOf (s.cfg.max + 1 + 1) more)
  rw [committing, hbuf]
  exact (step_commitState (s := committing s n ah al t (ds ++ d :: more) rest ds.length m) hmode hhost m _ _).trans
    (congrArg _ hrejected)

/-! ### The statements -/

/-- Settles O56: the data are taken by induction on them, and so are the buffered writes. -/
theorem correctRecordIsLoaded : Obligations.CorrectRecordIsLoaded := by
  intro s n ah al t ds rest hadmissible hwindow hlength hmax hsum hnonzero hinp
  rw [List.append_assoc] at hinp
  refine ⟨fun hcommit => ?_, fun hcommit => ⟨?_, fun hmode hhost => ⟨fun j hj => ?_, ?_⟩⟩⟩
  · exact ⟨_, stored_placeBytes ds _ s.mem, placeBytes_wf ds _ s.mem,
      exec_recordOf_loaded hadmissible hwindow hcommit hlength hmax hsum hnonzero hinp⟩
  · exact exec_recordOf_committing hwindow hcommit hlength hsum hnonzero hinp
  · exact ⟨_, stored_placeBytes (ds.take j) _ s.mem, placeBytes_wf (ds.take j) _ s.mem,
      run_committing hadmissible hwindow hmode hhost hj (by omega)⟩
  · have hrun := run_committing (n := n) (t := t) (rest := rest) hadmissible hwindow hmode hhost le_rfl hmax
    rw [List.take_length] at hrun
    exact ⟨_, stored_placeBytes ds _ s.mem, placeBytes_wf ds _ s.mem,
      run_then_step hrun (step_committing_done n ah al t ds rest hmode hhost _)⟩

/-- Settles O58: the bytes up to MAX are stored, and the next byte's address is MAX + 1, which is outside. -/
theorem writePastWindowEndsTheLoad : Obligations.WritePastWindowEndsTheLoad := by
  intro s n ah al d ds rest hadmissible hwindow hlast hreach
  have hstored := stored_placeBytes ds (wordOf ah al).toNat s.mem
  have hnext : BitVec.ofNat 16 ((wordOf ah al).toNat + ds.length) = s.cfg.max + 1 := by
    rw [hreach, ofNat_succ_addr, addr_ofNat_toNat]
  refine ⟨fun hcommit hlength hinp => ?_, fun more t hcommit hmode hhost hlength hsum hnonzero hinp => ?_⟩
  · rw [List.append_assoc] at hinp
    obtain ⟨left, hleft⟩ : ∃ left, n.toNat - 3 = left + 1 + ds.length := ⟨n.toNat - 3 - (ds.length + 1), by omega⟩
    have hpast := runRecord_pastMax (s := afterWritten (afterHeader n ah al s) (wordOf ah al).toNat ds (left + 1))
      hcommit rfl hlast hnext d rest
    refine ⟨_, (exec_recordOf_writes hadmissible hwindow hcommit hleft hreach.le hinp).trans (congrArg _ hpast), ?_⟩
    exact ⟨rfl, rfl, rfl, hstored, rfl, rfl, rfl, rfl, rfl, rfl, rfl⟩
  · rw [List.append_assoc] at hinp
    have haddr : wordOf ah al + BitVec.ofNat 16 ds.length = s.cfg.max + 1 := (addr_add_ofNat _ _).trans hnext
    have hj : ds.length ≤ (ds ++ d :: more).length := List.length_append.symm ▸ Nat.le_add_right _ _
    have hrun := run_committing (n := n) (t := t) (rest := rest) hadmissible hwindow hmode hhost hj hreach.le
    rw [List.take_left] at hrun
    refine ⟨exec_recordOf_committing hwindow hcommit hlength hsum hnonzero hinp, _,
      run_then_step hrun (step_committing_pastMax hmode hhost hlast haddr _), ?_⟩
    exact ⟨rfl, rfl, rfl, hstored, rfl, rfl, rfl, rfl, rfl, rfl, rfl⟩

end Sys2Proof.Machine
end

section
/-! PROOF. Errors: what one does, and the one `Report` of a step that ends an operation with it: O36, O37. -/

namespace Sys2Proof.Machine

/-- Settles O37: `raise` is the report, the return and `IDLE`, and the codes are those of the table of kinds. -/
theorem raiseReportsAndStops : Obligations.RaiseReportsAndStops :=
  ⟨fun _ _ => rfl, rfl, rfl, rfl, rfl, rfl, rfl⟩

/-- The state `t` is what an error makes of a state that has emitted nothing since `s`. -/
def RaisedFrom (s t : State) : Prop := ∃ e u, t = raise e u ∧ u.out = s.out

theorem RaisedFrom.report {s t : State} {k : ErrorKind} {e : Error} (h : RaisedFrom s t) (hret : t.ret = .err k e) :
    k = e.kind ∧ t.out = s.out ++ [.report k e] := by
  obtain ⟨e', u, rfl, hout⟩ := h
  rw [raise_ret] at hret
  cases hret
  exact ⟨rfl, by rw [raise_out, hout]⟩

/-- A character after which the record takes another one keeps `OPMODE` and `OUT`; the record's last one keeps `OPMODE` or
raises. -/
theorem RecordCharStep.goesOn_or_raised {c : Byte} {s : State} {p : State × Bool} (hstep : RecordCharStep c s p) :
    (p.2 = true ∧ p.1.opmode = s.opmode ∧ p.1.out = s.out) ∨
    (p.2 = false ∧ (p.1.opmode = s.opmode ∨ RaisedFrom s p.1)) := by
  cases hstep with
  | notInRecord | accepted | acceptedBuffered => exact .inr ⟨rfl, .inl rfl⟩
  | rejected e r => exact .inr ⟨rfl, .inr ⟨e, _, rfl, rfl⟩⟩
  | dataHalf | checkHalf | written | buffered => exact .inl ⟨rfl, rfl, rfl⟩

/-- A record that ends the load does so with an error, and emits nothing before it, by induction on the characters at
hand. -/
theorem runRecord_mode_or_raised (l : List StreamItem) : ∀ s : State,
    (runRecord l s).opmode = s.opmode ∨ RaisedFrom s (runRecord l s) := by
  induction l with
  | nil => exact fun s => .inl rfl
  | cons x rest ih =>
    intro s
    cases x with
    | eos => exact .inr ⟨_, _, rfl, rfl⟩
    | char c =>
      rw [runRecord]
      rcases (recordChar_step c { s with inp := rest }).goesOn_or_raised with ⟨hmore, hmode, hout⟩ | ⟨hends, hlast⟩
      · rw [if_pos hmore]
        exact (ih _).imp (·.trans hmode) fun ⟨e, u, hraise, hu⟩ => ⟨e, u, hraise, hu.trans hout⟩
      · rw [if_neg (by simp [hends])]
        exact hlast

theorem commitNext_mode_or_raised (s : State) : (commitNext s).opmode = s.opmode ∨ RaisedFrom s (commitNext s) := by
  rcases commitNext_cases s with ⟨-, e⟩ | ⟨_, _, _, -, -, e⟩ | ⟨_, _, _, -, -, e⟩ <;> rw [e]
  · exact .inl rfl
  · exact .inl rfl
  · exact .inr ⟨_, s, rfl, rfl⟩

/-- A step of a load goes on, ends with an error that is all it emits, or is the end of the load (R187, R240). -/
theorem LoadStep.mode_or_raised {s t : State} (hstep : LoadStep s t) :
    t.opmode = s.opmode ∨ RaisedFrom s t ∨ t = endLoad s := by
  cases hstep with
  | waits | fills | slides => exact .inl rfl
  | rejected e l r => exact .inr (.inl ⟨e, _, rfl, rfl⟩)
  | starts n ah al => exact (runRecord_mode_or_raised s.inp (afterHeader n ah al s)).imp_right .inl
  | goesOn => exact (runRecord_mode_or_raised s.inp s).imp_right .inl
  | commits => exact (commitNext_mode_or_raised s).imp_right .inl
  | ends => exact .inr (.inr rfl)

/-- A move of the host that ends an operation is a reset, which returns nothing (R260, R262). -/
theorem hostMove_ret_of_ends {m : HostMove} {s : State} (hready : hostReady s.opmode m = true) (hmode : s.opmode ≠ .idle)
    (hidle : (hostMove m s).opmode = .idle) : (hostMove m s).ret = .nothing := by
  rcases hostMove_mode hready with hkept | ⟨rfl, -⟩ | ⟨hs, -⟩
  · exact absurd (hkept.symm.trans hidle) hmode
  · rfl
  · exact absurd hs hmode

/-- A decode and a driver run return no error. -/
theorem DecodeStep.ret_ne_err {s t : State} (hstep : DecodeStep s t) (hmode : s.opmode = .decode ∨ s.opmode = .disasm)
    (hidle : t.opmode = .idle) (k : ErrorKind) (e : Error) : t.ret ≠ .err k e := by
  intro hret
  have hload : s.opmode ≠ .load := by rcases hmode with h | h <;> simp [h]
  rcases hstep.mode hmode with hkept | ⟨-, ⟨-, h⟩ | ⟨-, h⟩ | ⟨h, -⟩⟩
  · rw [← hkept, hidle] at hmode
    rcases hmode with h | h <;> cases h
  · cases h.symm.trans hret
  · cases h.symm.trans hret
  · exact hload h

/-- Settles O36: of the steps that end an operation only a load's return an error, and those are raised. -/
theorem anErrorIsReportedOnce : Obligations.AnErrorIsReportedOnce := by
  intro s t k e hstep hmode hidle hret
  cases machineStep_of_step hstep with
  | host m rest _ hready =>
    cases (hostMove_ret_of_ends (s := { s with host := rest }) hready hmode hidle).symm.trans hret
  | block l t hblock =>
    cases hblock with
    | idle hs => exact absurd hs hmode
    | decode t hs hdecode => exact absurd hret (hdecode.ret_ne_err hs hidle k e)
    | load t _ hload =>
      rcases hload.mode_or_raised with hkept | hraised | rfl
      · exact absurd (hkept.symm.trans hidle) hmode
      · exact hraised.report hret
      · cases hret

end Sys2Proof.Machine
end

section
/-! PROOF. A data record whose checksum is rejected: O57. -/

namespace Sys2Proof.Machine

/-- The checksum pair of a record is rejected where it differs from the computed one or is 0x00 (R196, R198). -/
theorem checkPair_rejects {s : State} {f t : Byte} (hsum : ~~~ s.ldr.acc = f) (hbad : t ≠ f ∨ t = 0x00) :
    checkPair (hiChar t) (loChar t) s =
      raise (.checksum s.ldr.line f t) { s with ldr := { s.ldr with t := t, f := f } } := by
  have hcheck : f ≠ t ∨ t = 0x00 := hbad.imp_left Ne.symm
  simp only [checkPair, hexPair_chars, checkRecord, hsum, if_pos hcheck]

/-- A record that has come to its checksum and is rejected takes the pair and ends, whatever follows. -/
theorem runRecord_rejects {s : State} {f t : Byte} (hphase : s.ldr.phase = pairPhase 0) (hsum : ~~~ s.ldr.acc = f)
    (hbad : t ≠ f ∨ t = 0x00) (l : List StreamItem) :
    runRecord (pairsOf [t] ++ l) s =
      raise (.checksum s.ldr.line f t)
        { s with inp := l, ldr := { s.ldr with t := t, f := f, phase := .check (some (hiChar t)) } } := by
  refine (runRecord_checkPair hphase (hiChar t) (loChar t) l).trans ?_
  rw [checkPair_rejects (s := withPhase (.check (some (hiChar t))) s) hsum hbad]
  rfl

/-- A buffered record in the load window: its first data bytes go into the line buffer, wherever their addresses lie, and
the record goes on (R192, R199). -/
theorem exec_recordOf_buffers {s : State} {n ah al : Byte} {ds : List Byte} {l : List StreamItem} {left : Nat}
    (hwindow : inLoadWindow s.cfg (wordOf ah al) = true) (hcommit : s.cfg.lineCommit = .buffered)
    (hlength : n.toNat - 3 = left + ds.length) (hinp : s.inp = pairsOf ds ++ l) :
    exec (recordOf n ah al) s = .next (runRecord l (afterBuffered (afterHeader n ah al s) ds left)) := by
  rw [exec_recordOf, dataRecord_inside hwindow, hinp]
  exact congrArg _ (runRecord_buffers left l ds (afterHeader n ah al s) hcommit (congrArg pairPhase hlength))

/-- Settles O57: either commit brings the record to its checksum with the sum of its bytes in the accumulator, its data in
memory or in the line buffer, and there it is rejected. -/
theorem wrongOrZeroChecksumEndsTheLoad : Obligations.WrongOrZeroChecksumEndsTheLoad := by
  intro s n ah al t ds rest hadmissible hwindow hlength hmax hbad hinp
  rw [List.append_assoc] at hinp
  have hleft : n.toNat - 3 = 0 + ds.length := by omega
  have hsum : ~~~ ds.foldl (fun acc d => acc + d) (afterHeader n ah al s).ldr.acc = ~~~ recordSum n ah al ds :=
    congrArg _ (afterHeader_sum n ah al s ds)
  cases hcommit : s.cfg.lineCommit with
  | writeThrough =>
    have hrejected := runRecord_rejects (s := afterWritten (afterHeader n ah al s) (wordOf ah al).toNat ds 0)
      rfl hsum hbad rest
    have hexec := exec_recordOf_writes hadmissible hwindow hcommit hleft (hmax hcommit) hinp
    exact ⟨_, hexec.trans (congrArg _ hrejected), rfl, rfl, rfl, fun _ => stored_placeBytes ds _ s.mem, nofun,
      rfl, rfl, rfl, rfl, rfl, rfl, rfl, rfl, rfl⟩
  | buffered =>
    have hrejected := runRecord_rejects (s := afterBuffered (afterHeader n ah al s) ds 0) rfl hsum hbad rest
    have hexec := exec_recordOf_buffers hwindow hcommit hleft hinp
    exact ⟨_, hexec.trans (congrArg _ hrejected), rfl, rfl, rfl, nofun, fun _ => rfl,
      rfl, rfl, rfl, rfl, rfl, rfl, rfl, rfl, rfl⟩

end Sys2Proof.Machine
end
